-- ==== Sys2Proof/Word.lean ====
section
/-! DEFINITION. The bit-vector types of the spec (R8, R9): a byte `u8`, the unsigned widths `u16` and `u32`, byte
sequences, and the two signed widths `i8` and `i32` the payload layouts use. -/

namespace Sys2Proof

/-- `u8`, one byte of a stream or a buffer (R9). -/
abbrev Byte := BitVec 8

/-- `u16` (R8). -/
abbrev U16 := BitVec 16

/-- `u32` (R8). -/
abbrev U32 := BitVec 32

/-- A byte sequence; index 0 is the first byte in stream order (R9). -/
abbrev Bytes := List Byte

/-- `i8`: eight bits read as two's complement (R8). A type of its own, so that a signed field is not used as an unsigned one. -/
structure I8 where
  pattern : BitVec 8
  deriving DecidableEq, Repr

/-- `i32`: 32 bits read as two's complement (R8). -/
structure I32 where
  pattern : BitVec 32
  deriving DecidableEq, Repr

end Sys2Proof
end

