-- ==== Sys2Proof/Config.lean ====
section
/-! DEFINITION. The configuration record `CFG` of the host (R29 to R35) and the open parameters of the block (R7), as plain
data: it is a field of State that no operation writes (R68). A function of the spec (`CFG.FUNC_MAP`, the name tables) is an
association list here; the look-ups are in Machine/Operands.lean. `Cfg.sample` is the example configuration of
spec/95_test_vectors.md section 1. -/

namespace Sys2Proof

/-- `CFG.MODE` (R30). -/
inductive Mode where
  | framed
  | passive
  deriving DecidableEq, Repr

/-- The message classes of R33 other than `K_CTX`: the values `CFG.CTX_DEFAULT_CLASS` may take (R182). -/
inductive PlainClass where
  | zeroarg | encrypted | opmode | status | param | version | offlen | long | valtype | paramval | time | statusvec
  | devdata | unknown
  deriving DecidableEq, Repr

/-- A message class (R33): one of the plain classes, or `K_CTX`. -/
inductive MsgClass where
  | plain (k : PlainClass)
  | ctx
  deriving DecidableEq, Repr

/-- One field of a packed sub-record layout (R99; widths R59). `devId` is a `u32` that is passed through `DEV.NORMID`
(the embedded inverter-linkage id of R225). -/
inductive FieldKind where
  | u8 | u16 | u32 | devId
  deriving DecidableEq, Repr

/-- A sub-record layout parameter (R99, D16) when the host supplies one: "a fixed packed structure", field by field. -/
abbrev Layout := List FieldKind

/-- `COMPACT_OPT_BITS` (R98, D17): the lowest bit of each of the three bit fields inside the word `W`. -/
structure CompactBits where
  vpanLo : Nat
  voptLo : Nat
  imodLo : Nat
  deriving DecidableEq, Repr

/-- The placement R98 decides: `W[9:0]`, `W[19:10]`, `W[31:20]`. -/
def CompactBits.standard : CompactBits := ⟨0, 10, 20⟩

/-- The function codes the spec names without numbers (R102), as the configuration binds them. -/
structure NamedFns where
  postData : U16
  upgradeWrite : U16
  getServerTime : U16
  ack : U16
  grant : U16
  grantReleaseAck : U16
  ctx : U16
  enc1 : U16
  enc2 : U16
  deriving DecidableEq, Repr

/-- The configuration record (R29). -/
structure Cfg where
  /-- `CFG.MODE` (R30). -/
  mode : Mode
  /-- `CFG.LIVE` (R31). -/
  live : Bool
  /-- `CFG.HALT_ON_ERROR` (R32). -/
  haltOnError : Bool
  /-- `CFG.FUNC_MAP` (R33): the listed codes; every other code is `K_UNKNOWN` (item (e)). -/
  funcMap : List (U16 × MsgClass)
  /-- The named function codes (R102). -/
  fns : NamedFns
  /-- `CFG.CTX_CMD` (R34). -/
  ctxCmd : U16
  /-- `CFG.CTX_DEFAULT_CLASS` (R34). -/
  ctxDefault : PlainClass
  /-- `OPMODE_NAMES` (R35): a code that is not listed has no name. -/
  opmodeNames : List (I32 × String)
  /-- `STATUS_NAMES` (R35). -/
  statusNames : List (U16 × String)
  /-- `COMPACT_OPT_BITS` (R98). -/
  compactBits : CompactBits
  /-- `LAYOUT_OPT_LEGACY` (R99): none when the model is not given it. -/
  layoutOptLegacy : Option Layout
  /-- `LAYOUT_INVERTER` (R99). -/
  layoutInverter : Option Layout
  /-- `LAYOUT_EVENT` (R99). -/
  layoutEvent : Option Layout
  deriving DecidableEq, Repr

/-- Contents of the Message registers and the payload buffer. -/
structure MessageRegs where
  seq : U16
  src : U32
  dst : U32
  fn : U16
  len : U16
  lenInv : U16
  cks : U16
  pay : Bytes
  deriving DecidableEq, Repr, Inhabited

/-- What the Message registers and `PAY` hold after FRAME.PARSE has raised (R143: "they are invalid"; spec/93 I11: `any value`):
one free value for each such error, nothing known of it (log entry 10). -/
opaque freeMessage : Nat → MessageRegs

/-- `EXAMPLE_CFG` (spec/95_test_vectors.md section 1): an example, not the spec's choice of any number. -/
def Cfg.sample : Cfg where
  mode := .framed
  live := false
  haltOnError := false
  funcMap :=
    [ (0x0021, .plain .offlen), (0x003D, .plain .encrypted), (0x0080, .plain .zeroarg), (0x0090, .ctx),
      (0x0302, .plain .zeroarg), (0x0380, .plain .zeroarg), (0x0500, .plain .devdata), (0x0501, .plain .zeroarg),
      (0x0503, .plain .encrypted), (0x0580, .plain .time), (0x7F01, .plain .opmode), (0x7F02, .plain .status),
      (0x7F03, .plain .param), (0x7F04, .plain .version), (0x7F05, .plain .long), (0x7F06, .plain .valtype),
      (0x7F07, .plain .paramval), (0x7F08, .plain .statusvec) ]
  fns :=
    { postData := 0x0500, upgradeWrite := 0x0021, getServerTime := 0x0501, ack := 0x0080, grant := 0x0302,
      grantReleaseAck := 0x0380, ctx := 0x0090, enc1 := 0x003D, enc2 := 0x0503 }
  ctxCmd := 0x0012
  ctxDefault := .long
  opmodeNames := [(⟨0⟩, "MODE_A"), (⟨1⟩, "MODE_B")]
  statusNames := [(0, "STATUS_OK")]
  compactBits := .standard
  layoutOptLegacy := none
  layoutInverter := none
  layoutEvent := none

end Sys2Proof
end

