-- ==== Sys2Proof/Machine/Operands.lean ====
section
/-! DEFINITION. Operand assembly (R100), on bytes and bit vectors alone: the fixed parameters (R6), byte order (R9, R51 to
R53), signed reinterpretation (R8), payload reads (R62), the configuration's look-ups (R33, R35), the device id (R223), the bit
fields of the compact record (R98), packed layouts (R99) and the scales (R228). No state. -/

namespace Sys2Proof

/-! ### Fixed parameters (R6) -/

/-- `MAGIC`, in stream order. -/
def magic : Bytes := [0x12, 0x34, 0x56, 0x79]

/-- `MAGIC_LEN + HDR_LEN`: the bytes the framed receiver reads before it knows the length (R148). -/
def headLen : Nat := 20

/-- `HDR_LEN`. -/
def hdrLen : Nat := 16

/-- `MIN_BODY = HDR_LEN + CKS_LEN`. -/
def minBody : Nat := 18

/-- `CKS_LEN`. -/
def cksLen : Nat := 2

/-- `SUBHDR_LEN`. -/
def subHdrLen : Nat := 8

/-- The most bytes a payload has (`LEN_WIDTH` = 16). -/
def maxPayload : Nat := 65535

/-- `CRC_INIT`. -/
def crcInitValue : U16 := 0x5A5A

/-- `ID_STATUS_BIT`. -/
def idStatusBit : U32 := 0x00800000

/-- `TAG_OPT_LEGACY`. -/
def tagOptLegacy : U16 := 0x0000

/-- `TAG_OPT_COMPACT`. -/
def tagOptCompact : U16 := 0x0080

/-- `TAG_INVERTER`. -/
def tagInverter : U16 := 0x0010

/-- `TAG_EVENT`. -/
def tagEvent : U16 := 0x0300

/-- The bytes of a compact optimizer record that are read (R98). -/
def compactLen : Nat := 13

/-! ### Bytes and integers (R9) -/

/-- `s[i]` on a byte sequence. Total for Lean's sake: every reader first checks the length, as R62 asks, so the byte given
past the end is never used. -/
def byteAt (b : Bytes) (i : Nat) : Byte := b.getD i 0

/-- `LE16(s, i)`. -/
def le16 (b : Bytes) (i : Nat) : U16 :=
  (byteAt b i).setWidth 16 ||| ((byteAt b (i + 1)).setWidth 16 <<< 8)

/-- `LE32(s, i)`. -/
def le32 (b : Bytes) (i : Nat) : U32 :=
  (byteAt b i).setWidth 32 ||| ((byteAt b (i + 1)).setWidth 32 <<< 8) |||
    ((byteAt b (i + 2)).setWidth 32 <<< 16) ||| ((byteAt b (i + 3)).setWidth 32 <<< 24)

/-- `encLE16(v)`. -/
def encLE16 (v : U16) : Bytes := [v.extractLsb' 0 8, v.extractLsb' 8 8]

/-- `encLE32(v)`. -/
def encLE32 (v : U32) : Bytes := [v.extractLsb' 0 8, v.extractLsb' 8 8, v.extractLsb' 16 8, v.extractLsb' 24 8]

/-- `encBE16(v)`. -/
def encBE16 (v : U16) : Bytes := [v.extractLsb' 8 8, v.extractLsb' 0 8]

/-- `encBE32(v)`. -/
def encBE32 (v : U32) : Bytes := [v.extractLsb' 24 8, v.extractLsb' 16 8, v.extractLsb' 8 8, v.extractLsb' 0 8]

/-- `not_16(v)` (R82). -/
def not16 (v : U16) : U16 := ~~~v

/-- `signed_8(v)`: the same bits, read as `i8` (R8). -/
def signed8 (v : Byte) : I8 := ⟨v⟩

/-- `signed_32(v)`: the same bits, read as `i32` (R8). -/
def signed32 (v : U32) : I32 := ⟨v⟩

/-- The integer an `i8` stands for (R8). -/
def I8.toInt (x : I8) : Int :=
  if x.pattern.toNat < 2 ^ 7 then (x.pattern.toNat : Int) else (x.pattern.toNat : Int) - 2 ^ 8

/-- The integer an `i32` stands for (R8). -/
def I32.toInt (x : I32) : Int :=
  if x.pattern.toNat < 2 ^ 31 then (x.pattern.toNat : Int) else (x.pattern.toNat : Int) - 2 ^ 32

/-- `PayRead(off, n)` on a byte sequence (R62): no value when it would run past the end. -/
def payRead (pay : Bytes) (off n : Nat) : Option Bytes :=
  if off + n ≤ pay.length then some ((pay.drop off).take n) else none

/-- Every byte is zero, and there is at least one (R147). -/
def allZero (unit : Bytes) : Bool := !unit.isEmpty && unit.all (· == 0)

/-- The last four bytes are the magic (R150). -/
def endsWithMagic (buf : Bytes) : Bool := decide (4 ≤ buf.length) && buf.drop (buf.length - 4) == magic

/-! ### The configuration's look-ups -/

/-- The first entry of an association list under a key. -/
def lookupKey {κ β : Type} [DecidableEq κ] : List (κ × β) → κ → Option β
  | [], _ => none
  | (k, v) :: rest, x => if k = x then some v else lookupKey rest x

/-- `CFG.FUNC_MAP(fn)` (R33): a code that is not listed is `K_UNKNOWN`. -/
def Cfg.classOf (cfg : Cfg) (fn : U16) : MsgClass := (lookupKey cfg.funcMap fn).getD (.plain .unknown)

/-- `OPMODE_NAMES(raw)` (R35). -/
def Cfg.opmodeName (cfg : Cfg) (raw : I32) : Option String := lookupKey cfg.opmodeNames raw

/-- `STATUS_NAMES(raw)` (R35). -/
def Cfg.statusName (cfg : Cfg) (raw : U16) : Option String := lookupKey cfg.statusNames raw

/-- `RESOLVE_CTX(ctx)` (R182). -/
def Cfg.resolveCtx (cfg : Cfg) (ctx : Option U16) : PlainClass :=
  if ctx = some cfg.ctxCmd then .opmode else cfg.ctxDefault

/-- The class whose decoder runs (R181, first two lines). -/
def Cfg.resolveClass (cfg : Cfg) (fn : U16) (ctx : Option U16) : PlainClass :=
  match cfg.classOf fn with
  | .plain k => k
  | .ctx => cfg.resolveCtx ctx

/-! ### Device data -/

/-- `DEV.NORMID(devid)` (R223): bit 23 cleared. -/
def normId (devid : U32) : U32 := devid &&& ~~~idStatusBit

/-- One of the three bit fields of the compact record (R98): `w` bits of `W` from bit `lo` up. -/
def compactField (wd : U32) (lo w : Nat) : BitVec w := wd.extractLsb' lo w

/-- The value of one field of a packed layout: its bits, at its width (R59; kept as a bit pattern, N22). -/
inductive FieldVal where
  | b1 (v : BitVec 8)
  | b2 (v : BitVec 16)
  | b4 (v : BitVec 32)
  deriving DecidableEq, Repr

/-- The width of a field in bytes. -/
def FieldKind.size : FieldKind → Nat
  | .u8 => 1
  | .u16 => 2
  | .u32 => 4
  | .devId => 4

/-- The bytes a layout expects. -/
def Layout.size (l : Layout) : Nat := (l.map FieldKind.size).sum

/-- Reads one field of a layout at the start of a byte sequence. -/
def FieldKind.read (k : FieldKind) (b : Bytes) : FieldVal :=
  match k with
  | .u8 => .b1 (byteAt b 0)
  | .u16 => .b2 (le16 b 0)
  | .u32 => .b4 (le32 b 0)
  | .devId => .b4 (normId (le32 b 0))

/-- The ordered field list of a packed structure (R99), read from bytes that are long enough. -/
def readFields : Layout → Bytes → List FieldVal
  | [], _ => []
  | k :: ks, b => k.read b :: readFields ks (b.drop k.size)

/-- A layout applied to a sub-payload (R99): the ordered field list, or nothing when the size is not the layout's. -/
def cutFields (l : Layout) (sub : Bytes) : Option (List FieldVal) :=
  if sub.length = l.size then some (readFields l sub) else none

/-! ### Scales (R228): the factor a consumer multiplies a raw integer with -/

def scaleVpan : Rat := 1 / 8
def scaleVopt : Rat := 1 / 8
def scaleImod : Rat := 1 / 160
def scaleEday : Rat := 1 / 4
def scaleTemp : Rat := 2

end Sys2Proof
end

