-- ==== Sys2Proof/Syntax.lean ====
section
/-! DEFINITION. The abstract syntax: one constructor of `Instr` per row of spec/opcode_table.json. Three levels have an encoding
(R101): the frame, the message class keyed by the function code, the sub-record keyed by the device tag. The other rows are
operations invoked by name (R104). `Cmd` is what the host can place before the block: the bytes of one encoded object, or the
name of an operation with its operands. -/

namespace Sys2Proof

/-- One event of the input stream `RXS` (R50). -/
inductive Event where
  | byte (b : Byte)
  | empty
  | fault
  deriving DecidableEq, Repr

/-- The instructions. Operand names follow the table's fields; `src` and `dst` are the table's `from` and `to`. -/
inductive Instr where
  /-- FRAME: one wire frame, its fields as found on the wire (R81); nothing is validated yet. -/
  | frame (len lenInv seq : U16) (src dst : U32) (fn : U16) (payload : Bytes) (cks : U16)
  -- message classes (R101 level 2): the function code and the payload
  | kZeroarg (f : U16) (pay : Bytes)
  | kEncrypted (f : U16) (pay : Bytes)
  | kCtx (f : U16) (pay : Bytes) (ctx : Option U16)
  | kOpmode (f : U16) (pay : Bytes)
  | kStatus (f : U16) (pay : Bytes)
  | kParam (f : U16) (pay : Bytes)
  | kVersion (f : U16) (pay : Bytes)
  | kOfflen (f : U16) (pay : Bytes)
  | kLong (f : U16) (pay : Bytes)
  | kValtype (f : U16) (pay : Bytes)
  | kParamval (f : U16) (pay : Bytes)
  | kTime (f : U16) (pay : Bytes)
  | kStatusvec (f : U16) (pay : Bytes)
  | kDevdata (f : U16) (pay : Bytes)
  | kUnknown (f : U16) (pay : Bytes)
  -- sub-records (R101 level 3): the raw device id and the sub-payload
  | subOptLegacy (devid : U32) (sub : Bytes)
  | subOptCompact (devid : U32) (sub : Bytes)
  | subInverter (devid : U32) (sub : Bytes)
  | subEvent (devid : U32) (sub : Bytes)
  | subOther (tag : U16) (devid : U32) (sub : Bytes)
  -- the CRC unit
  | crcInit
  | crcStep (b : Byte)
  | crcRead
  | crcSum (bs : Bytes)
  -- the frame unit
  | coverage (seq : U16) (src dst : U32) (fn : U16) (payload : Bytes)
  | frameFormat (seq : U16) (src dst : U32) (fn : U16) (payload : Bytes)
  | frameSend (seq : U16) (src dst : U32) (fn : U16) (payload : Bytes)
  | frameParse (body : Bytes)
  | frameFilter (unit : Bytes)
  /-- RX.STEP in framed mode; its event operand is taken from `RXS` (R148). -/
  | rxStepFramed (ctx : Option U16)
  /-- RX.STEP in passive mode; its event operand is taken from `RXS` (R150). -/
  | rxStepPassive (ctx : Option U16)
  | endOfStream
  | deliver (unit : Bytes) (ctx : Option U16)
  -- the dispatcher
  | dispatch (fn : U16) (pay : Bytes) (ctx : Option U16)
  | resolveCtx (ctx : Option U16)
  | decNone (pay : Bytes)
  | decOpmode (pay : Bytes)
  | decStatus (pay : Bytes)
  | decParam (pay : Bytes)
  | decVersion (pay : Bytes)
  | decOfflen (pay : Bytes)
  | decLong (pay : Bytes)
  | decValtype (pay : Bytes)
  | decParamval (pay : Bytes)
  | decTime (pay : Bytes)
  | decStatusvec (pay : Bytes)
  -- the device-data decoder
  | decDevdata (pay : Bytes)
  | devNormid (devid : U32)
  | devOptLegacy (id : U32) (sub : Bytes)
  | devInverter (id : U32) (sub : Bytes)
  | devOptCompact (id : U32) (sub : Bytes)
  | devEvent (id : U32) (sub : Bytes)
  | devSkip (tag : U16) (id : U32) (sublen : U16)
  -- system operations
  | sysReset
  /-- SYS.REOPEN; the operand is the new input stream the reopened transport supplies (R266). -/
  | sysReopen (stream : List Event)
  deriving DecidableEq, Repr

/-- What stands at the block's request port: the bytes of one encoded object, or an operation called by name (R104). -/
inductive Cmd where
  /-- The bytes of one frame, format `F` (R81). -/
  | wire (b : Bytes)
  /-- The function field and the payload of a message, as they stand on the wire (R81, offsets 18 on), and the command context. -/
  | msg (b : Bytes) (ctx : Option U16)
  /-- The bytes of one sub-record, format `SUB` (R97). -/
  | sub (b : Bytes)
  /-- An operation without a bit encoding, called by name with its operands (R104). -/
  | call (i : Instr)
  deriving DecidableEq, Repr

end Sys2Proof
end

