-- ==== Sys2Proof/WellFormed.lean ====
section
/-! DEFINITION. Well-formedness: of the configuration (R33, R34, R35, R283) and of an instruction under a configuration (the
operand bounds of R80, R81, R97, R141, and that a message-class row carries a function code of its class, R101). -/

namespace Sys2Proof

/-- The keys of a function map strictly rise and no entry says `K_UNKNOWN`, which is what an unlisted code has: so equal
maps are equal lists. -/
def funcMapSorted : List (U16 × MsgClass) → Bool
  | [] => true
  | [(_, k)] => k != .plain .unknown
  | (a, k) :: (b, k') :: rest => decide (a.toNat < b.toNat) && k != .plain .unknown && funcMapSorted ((b, k') :: rest)

/-- How many listed codes have a class. -/
def Cfg.countClass (cfg : Cfg) (k : MsgClass) : Nat := cfg.funcMap.countP (·.2 == k)

/-- A bit field of `w` bits from bit `lo` lies inside the 32-bit word `W` (R98). -/
def fieldFits (lo w : Nat) : Bool := decide (lo + w ≤ 32)

/-- The configuration is one the host may supply: the constraints (a) to (e) of R33, the name tables are functions (R35), the
bit fields lie inside `W` (R98). That `CFG.CTX_DEFAULT_CLASS` is not `K_CTX` (R182) holds by its type. -/
def Cfg.wf (cfg : Cfg) : Bool :=
  funcMapSorted cfg.funcMap
    && cfg.countClass (.plain .encrypted) == 2
    && cfg.countClass .ctx == 1
    && cfg.classOf 0xFFFF == .plain .unknown
    && cfg.classOf cfg.fns.postData == .plain .devdata
    && cfg.classOf cfg.fns.upgradeWrite == .plain .offlen
    && cfg.classOf cfg.fns.ctx == .ctx
    && cfg.classOf cfg.fns.enc1 == .plain .encrypted
    && cfg.classOf cfg.fns.enc2 == .plain .encrypted
    && cfg.fns.enc1 != cfg.fns.enc2
    && decide (cfg.opmodeNames.map (·.1)).Nodup
    && decide (cfg.statusNames.map (·.1)).Nodup
    && fieldFits cfg.compactBits.vpanLo 10
    && fieldFits cfg.compactBits.voptLo 10
    && fieldFits cfg.compactBits.imodLo 12

/-- A payload fits the 16-bit length field (R80). -/
def payloadFits (pay : Bytes) : Bool := decide (pay.length ≤ maxPayload)

/-- A message row: the payload fits, and the configuration gives the code that class (R101). -/
def messageWf (cfg : Cfg) (f : U16) (pay : Bytes) (k : MsgClass) : Bool := payloadFits pay && cfg.classOf f == k

/-- The tag is none of the four recognised ones (R222). -/
def tagUnrecognised (tag : U16) : Bool :=
  tag != tagOptLegacy && tag != tagOptCompact && tag != tagInverter && tag != tagEvent

/-- The instruction is one the encodings admit, under a configuration. -/
def Instr.wf (cfg : Cfg) : Instr → Bool
  | .frame len _ _ _ _ _ payload _ => payload.length == len.toNat
  | .kZeroarg f pay => messageWf cfg f pay (.plain .zeroarg)
  | .kEncrypted f pay => messageWf cfg f pay (.plain .encrypted)
  | .kCtx f pay _ => messageWf cfg f pay .ctx
  | .kOpmode f pay => messageWf cfg f pay (.plain .opmode)
  | .kStatus f pay => messageWf cfg f pay (.plain .status)
  | .kParam f pay => messageWf cfg f pay (.plain .param)
  | .kVersion f pay => messageWf cfg f pay (.plain .version)
  | .kOfflen f pay => messageWf cfg f pay (.plain .offlen)
  | .kLong f pay => messageWf cfg f pay (.plain .long)
  | .kValtype f pay => messageWf cfg f pay (.plain .valtype)
  | .kParamval f pay => messageWf cfg f pay (.plain .paramval)
  | .kTime f pay => messageWf cfg f pay (.plain .time)
  | .kStatusvec f pay => messageWf cfg f pay (.plain .statusvec)
  | .kDevdata f pay => messageWf cfg f pay (.plain .devdata)
  | .kUnknown f pay => messageWf cfg f pay (.plain .unknown)
  | .subOptLegacy _ sub => payloadFits sub
  | .subOptCompact _ sub => payloadFits sub
  | .subInverter _ sub => payloadFits sub
  | .subEvent _ sub => payloadFits sub
  | .subOther tag _ sub => payloadFits sub && tagUnrecognised tag
  | .crcInit => true
  | .crcStep _ => true
  | .crcRead => true
  | .crcSum _ => true
  | .coverage _ _ _ _ _ => true
  | .frameFormat _ _ _ _ payload => payloadFits payload
  | .frameSend _ _ _ _ payload => payloadFits payload
  | .frameParse _ => true
  | .frameFilter _ => true
  | .rxStepFramed _ => true
  | .rxStepPassive _ => true
  | .endOfStream => true
  | .deliver _ _ => true
  | .dispatch _ _ _ => true
  | .resolveCtx _ => true
  | .decNone _ => true
  | .decOpmode _ => true
  | .decStatus _ => true
  | .decParam _ => true
  | .decVersion _ => true
  | .decOfflen _ => true
  | .decLong _ => true
  | .decValtype _ => true
  | .decParamval _ => true
  | .decTime _ => true
  | .decStatusvec _ => true
  | .decDevdata _ => true
  | .devNormid _ => true
  | .devOptLegacy _ _ => true
  | .devInverter _ _ => true
  | .devOptCompact _ _ => true
  | .devEvent _ _ => true
  | .devSkip _ _ _ => true
  | .sysReset => true
  | .sysReopen _ => true

end Sys2Proof
end

