-- ==== Sys2Proof/Decode.lean ====
section
/-! DEFINITION. The decoder, total on every command and rejecting by name, and after it the encoder (R80 to R105). Decoding the
second level takes the configuration, because `CFG.FUNC_MAP` holds the function codes (R101). -/

namespace Sys2Proof

/-- Why bytes, or a call, are no instruction of the table. -/
inductive DecodeError where
  /-- The first four bytes are not the magic (R101 level 1). -/
  | badMagic
  /-- Fewer bytes than the frame's length field asks for (R80). -/
  | shortFrame
  /-- Bytes follow the one encoded object. -/
  | trailingBytes
  /-- A message without its two function-code bytes. -/
  | shortMessage
  /-- A payload of more than 65535 bytes (R80). -/
  | longPayload
  /-- Fewer bytes than the sub-header and its length field ask for (R97). -/
  | shortSub
  /-- A call that names a row with an encoding: such a row is placed as its bytes. -/
  | notAnOperation
  /-- A call whose operands are out of their range (R141). -/
  | illFormed
  deriving DecidableEq, Repr

/-- The rows of format `OP`: the operations invoked by name (R104). -/
def Instr.isNamed : Instr → Bool
  | .frame _ _ _ _ _ _ _ _ => false
  | .kZeroarg _ _ => false
  | .kEncrypted _ _ => false
  | .kCtx _ _ _ => false
  | .kOpmode _ _ => false
  | .kStatus _ _ => false
  | .kParam _ _ => false
  | .kVersion _ _ => false
  | .kOfflen _ _ => false
  | .kLong _ _ => false
  | .kValtype _ _ => false
  | .kParamval _ _ => false
  | .kTime _ _ => false
  | .kStatusvec _ _ => false
  | .kDevdata _ _ => false
  | .kUnknown _ _ => false
  | .subOptLegacy _ _ => false
  | .subOptCompact _ _ => false
  | .subInverter _ _ => false
  | .subEvent _ _ => false
  | .subOther _ _ _ => false
  | .crcInit => true
  | .crcStep _ => true
  | .crcRead => true
  | .crcSum _ => true
  | .coverage _ _ _ _ _ => true
  | .frameFormat _ _ _ _ _ => true
  | .frameSend _ _ _ _ _ => true
  | .frameParse _ => true
  | .frameFilter _ => true
  | .rxStepFramed _ => true
  | .rxStepPassive _ => true
  | .endOfStream => true
  | .deliver _ _ => true
  | .dispatch _ _ _ => true
  | .resolveCtx _ => true
  | .decNone _ => true
  | .decOpmode _ => true
  | .decStatus _ => true
  | .decParam _ => true
  | .decVersion _ => true
  | .decOfflen _ => true
  | .decLong _ => true
  | .decValtype _ => true
  | .decParamval _ => true
  | .decTime _ => true
  | .decStatusvec _ => true
  | .decDevdata _ => true
  | .devNormid _ => true
  | .devOptLegacy _ _ => true
  | .devInverter _ _ => true
  | .devOptCompact _ _ => true
  | .devEvent _ _ => true
  | .devSkip _ _ _ => true
  | .sysReset => true
  | .sysReopen _ => true

/-! ### Decoding -/

/-- Level 1: the frame at the start of a byte sequence, and the bytes after it (R80, R81). -/
def decodeFrame (b : Bytes) : Except DecodeError (Instr × Bytes) :=
  if b.take 4 ≠ magic then .error .badMagic
  else if b.length < headLen then .error .shortFrame
  else if b.length < headLen + (le16 b 4).toNat + cksLen then .error .shortFrame
  else
    .ok (.frame (le16 b 4) (le16 b 6) (le16 b 8) (le32 b 10) (le32 b 14) (le16 b 18)
          ((b.drop headLen).take (le16 b 4).toNat) (le16 b (headLen + (le16 b 4).toNat)),
        b.drop (headLen + (le16 b 4).toNat + cksLen))

/-- Level 2: the row of a message class (R101, R181). -/
def messageRow (k : MsgClass) (f : U16) (pay : Bytes) (ctx : Option U16) : Instr :=
  match k with
  | .plain .zeroarg => .kZeroarg f pay
  | .plain .encrypted => .kEncrypted f pay
  | .plain .opmode => .kOpmode f pay
  | .plain .status => .kStatus f pay
  | .plain .param => .kParam f pay
  | .plain .version => .kVersion f pay
  | .plain .offlen => .kOfflen f pay
  | .plain .long => .kLong f pay
  | .plain .valtype => .kValtype f pay
  | .plain .paramval => .kParamval f pay
  | .plain .time => .kTime f pay
  | .plain .statusvec => .kStatusvec f pay
  | .plain .devdata => .kDevdata f pay
  | .plain .unknown => .kUnknown f pay
  | .ctx => .kCtx f pay ctx

/-- Level 2: a message, from its function field and payload as they stand on the wire. -/
def decodeMessage (cfg : Cfg) (b : Bytes) (ctx : Option U16) : Except DecodeError Instr :=
  if b.length < 2 then .error .shortMessage
  else if (b.drop 2).length > maxPayload then .error .longPayload
  else .ok (messageRow (cfg.classOf (le16 b 0)) (le16 b 0) (b.drop 2) ctx)

/-- Level 3: the row of a device tag (R101, R222). -/
def subRow (tag : U16) (devid : U32) (sub : Bytes) : Instr :=
  if tag = tagOptLegacy then .subOptLegacy devid sub
  else if tag = tagOptCompact then .subOptCompact devid sub
  else if tag = tagInverter then .subInverter devid sub
  else if tag = tagEvent then .subEvent devid sub
  else .subOther tag devid sub

/-- Level 3: the sub-record at the start of a byte sequence, and the bytes after it (R97). -/
def decodeSub (b : Bytes) : Except DecodeError (Instr × Bytes) :=
  if b.length < subHdrLen then .error .shortSub
  else if b.length < subHdrLen + (le16 b 6).toNat then .error .shortSub
  else
    .ok (subRow (le16 b 0) (le32 b 2) ((b.drop subHdrLen).take (le16 b 6).toNat),
        b.drop (subHdrLen + (le16 b 6).toNat))

/-- One encoded object and nothing after it. -/
def exactly : Except DecodeError (Instr × Bytes) → Except DecodeError Instr
  | .error e => .error e
  | .ok (i, []) => .ok i
  | .ok (_, _ :: _) => .error .trailingBytes

/-- The decoder of the request port. -/
def decode (cfg : Cfg) : Cmd → Except DecodeError Instr
  | .wire b => exactly (decodeFrame b)
  | .msg b ctx => decodeMessage cfg b ctx
  | .sub b => exactly (decodeSub b)
  | .call i =>
    if i.isNamed = false then .error .notAnOperation
    else if i.wf cfg = false then .error .illFormed
    else .ok i

/-- The command an opcode-table word stands for: a 32-bit word is the first four bytes of a frame, which the table shows
big-endian (R101), a 16-bit word is the tag of a sub-record (little-endian, R97); zeros follow, as far as the shortest frame or
sub-record goes. The table gives no other row bits of its own. -/
def tableCmd (nbits w : Nat) : Option Cmd :=
  if nbits = 32 then some (.wire (encBE32 (BitVec.ofNat 32 w) ++ List.replicate 18 0))
  else if nbits = 16 then some (.sub (encLE16 (BitVec.ofNat 16 w) ++ List.replicate 6 0))
  else none

/-- The instruction the decoder reads from an opcode-table word. Neither the frame nor the sub-record level reads the
configuration. -/
def decodeTableWord (nbits w : Nat) : Option Instr :=
  match tableCmd nbits w with
  | some c => (decode Cfg.sample c).toOption
  | none => none

/-! ### Encoding -/

/-- The bytes of a frame from its wire fields (R81). -/
def encodeFrame (len lenInv seq : U16) (src dst : U32) (fn : U16) (payload : Bytes) (cks : U16) : Bytes :=
  magic ++ encLE16 len ++ encLE16 lenInv ++ encLE16 seq ++ encLE32 src ++ encLE32 dst ++ encLE16 fn ++ payload ++ encLE16 cks

/-- The bytes of a message: function field and payload (R81, offsets 18 on). -/
def encodeMessage (f : U16) (pay : Bytes) (ctx : Option U16) : Cmd := .msg (encLE16 f ++ pay) ctx

/-- The bytes of a sub-record (R97, R105). -/
def encodeSub (tag : U16) (devid : U32) (sub : Bytes) : Bytes :=
  encLE16 tag ++ encLE32 devid ++ encLE16 (BitVec.ofNat 16 sub.length) ++ sub

/-- The command of an instruction. -/
def encode : Instr → Cmd
  | .frame len lenInv seq src dst fn payload cks => .wire (encodeFrame len lenInv seq src dst fn payload cks)
  | .kZeroarg f pay => encodeMessage f pay none
  | .kEncrypted f pay => encodeMessage f pay none
  | .kCtx f pay ctx => encodeMessage f pay ctx
  | .kOpmode f pay => encodeMessage f pay none
  | .kStatus f pay => encodeMessage f pay none
  | .kParam f pay => encodeMessage f pay none
  | .kVersion f pay => encodeMessage f pay none
  | .kOfflen f pay => encodeMessage f pay none
  | .kLong f pay => encodeMessage f pay none
  | .kValtype f pay => encodeMessage f pay none
  | .kParamval f pay => encodeMessage f pay none
  | .kTime f pay => encodeMessage f pay none
  | .kStatusvec f pay => encodeMessage f pay none
  | .kDevdata f pay => encodeMessage f pay none
  | .kUnknown f pay => encodeMessage f pay none
  | .subOptLegacy devid sub => .sub (encodeSub tagOptLegacy devid sub)
  | .subOptCompact devid sub => .sub (encodeSub tagOptCompact devid sub)
  | .subInverter devid sub => .sub (encodeSub tagInverter devid sub)
  | .subEvent devid sub => .sub (encodeSub tagEvent devid sub)
  | .subOther tag devid sub => .sub (encodeSub tag devid sub)
  | .crcInit => .call .crcInit
  | .crcStep b => .call (.crcStep b)
  | .crcRead => .call .crcRead
  | .crcSum bs => .call (.crcSum bs)
  | .coverage seq src dst fn payload => .call (.coverage seq src dst fn payload)
  | .frameFormat seq src dst fn payload => .call (.frameFormat seq src dst fn payload)
  | .frameSend seq src dst fn payload => .call (.frameSend seq src dst fn payload)
  | .frameParse body => .call (.frameParse body)
  | .frameFilter unit => .call (.frameFilter unit)
  | .rxStepFramed ctx => .call (.rxStepFramed ctx)
  | .rxStepPassive ctx => .call (.rxStepPassive ctx)
  | .endOfStream => .call .endOfStream
  | .deliver unit ctx => .call (.deliver unit ctx)
  | .dispatch fn pay ctx => .call (.dispatch fn pay ctx)
  | .resolveCtx ctx => .call (.resolveCtx ctx)
  | .decNone pay => .call (.decNone pay)
  | .decOpmode pay => .call (.decOpmode pay)
  | .decStatus pay => .call (.decStatus pay)
  | .decParam pay => .call (.decParam pay)
  | .decVersion pay => .call (.decVersion pay)
  | .decOfflen pay => .call (.decOfflen pay)
  | .decLong pay => .call (.decLong pay)
  | .decValtype pay => .call (.decValtype pay)
  | .decParamval pay => .call (.decParamval pay)
  | .decTime pay => .call (.decTime pay)
  | .decStatusvec pay => .call (.decStatusvec pay)
  | .decDevdata pay => .call (.decDevdata pay)
  | .devNormid devid => .call (.devNormid devid)
  | .devOptLegacy id sub => .call (.devOptLegacy id sub)
  | .devInverter id sub => .call (.devInverter id sub)
  | .devOptCompact id sub => .call (.devOptCompact id sub)
  | .devEvent id sub => .call (.devEvent id sub)
  | .devSkip tag id sublen => .call (.devSkip tag id sublen)
  | .sysReset => .call .sysReset
  | .sysReopen stream => .call (.sysReopen stream)

end Sys2Proof
end

