-- ==== Sys2Proof/Machine/State.lean ====
section
/-! DEFINITION. The state of the block as plain data (R20 to R41), the values an operation hands over (R180, R220, R250), the ways
a step can stop, and the state after reset (R280). -/

namespace Sys2Proof.Machine

/-- The outcome kinds, with the numbers of R250 in Machine/Flags.lean. -/
inductive Code where
  | ok | noMessage | shortMessage | lengthMismatch | checksumMismatch | unknownFunction | unknownDeviceType
  | transportFault | allZeroDiscard | warmupDiscard | badMagic | sizeMismatch | payloadSize | subRecordTruncated | mapMiss
  deriving DecidableEq, Repr

/-- The `class` a `PayloadSize` refusal names: a message class (R195) or a sub-payload format (R227). The three formats other
than the compact one are named only when their layout parameter is given (R99). -/
inductive SizeClass where
  | cls (k : PlainClass)
  | sOptCompact
  | sOptLegacy
  | sInverter
  | sEvent
  deriving DecidableEq, Repr

/-- The values recorded with an outcome kind (the column of R250). -/
inductive Info where
  | none
  | lengths (len lenInv : U16)
  | checksums (wire computed : U16)
  | function (fn : U16)
  | found (b : Bytes)
  | sizes (held want : Nat)
  | payloadSize (cls : SizeClass) (held want : Nat)
  | truncated (pos held want : Nat)
  deriving DecidableEq, Repr

/-- `RX.phase` (R27). -/
inductive Phase where
  | head | tail | scan | done | desync
  deriving DecidableEq, Repr

/-- What a sub-record without a stated layout gives: its bytes uncut, or the fields of the layout the host supplied (R99). -/
inductive SubBody where
  | uncut (sub : Bytes)
  | cut (fields : List FieldVal)
  deriving DecidableEq, Repr

/-- A device record (R220). -/
inductive DevRec where
  | optLegacy (id : U32) (body : SubBody)
  | optCompact (id timestamp : U32) (uptime : U16) (vpan vopt : BitVec 10) (imod : BitVec 12) (eday : U16) (temp : I8)
      (inverterLink : U32)
  | inverter (id : U32) (body : SubBody)
  | event (id : U32) (body : SubBody)
  deriving DecidableEq, Repr

/-- The result of a payload decoder (R180). `statusVec` holds no field or seven (R194). -/
inductive Result where
  | empty
  | opMode (raw : I32) (name : Option String)
  | status (raw : U16) (name : Option String)
  | param (value : U16)
  | version (major minor : U16)
  | offLen (offset length : U32) (data : Bytes)
  | long (value : U32)
  | valType (value : U32) (type : U16)
  | paramVal (param : U16) (value : U32)
  | time (epoch : U32) (tzoff : I32)
  | statusVec (fields : List U16)
  | devData (records : List DevRec) (skipped : Nat)
  deriving DecidableEq, Repr

/-- What the last operation returned to the host (the `return` lines of the rules; R263). -/
inductive Ret where
  | none
  /-- `CRC.READ`, `CRC.SUM`. -/
  | crc (v : U16)
  /-- `COVERAGE`, `FRAME.FORMAT`. -/
  | bytes (b : Bytes)
  /-- `Empty` of `FRAME.PARSE`. -/
  | empty
  /-- `Message(...)` of `FRAME.PARSE`. -/
  | message (seq : U16) (src dst : U32) (fn : U16) (payload : Bytes)
  /-- `Drop` and `Pass` of `FRAME.FILTER`. -/
  | drop
  | pass
  /-- `NoMessage` of `END_OF_STREAM`. -/
  | noMessage
  /-- `RESOLVE_CTX`. -/
  | cls (k : PlainClass)
  /-- A decoder called by name. -/
  | result (r : Result)
  /-- `Decoded(fn, result)` of `DISPATCH`. -/
  | decoded (fn : U16) (r : Result)
  /-- `DEV.NORMID`. -/
  | id (v : U32)
  /-- A device sub-decoder. -/
  | record (d : DevRec)
  deriving DecidableEq, Repr

/-- Why the machine takes no step. Each is a stuck state of the spec: the operation is not enabled there (R38, R39, R142, R148,
R150, R266), so nothing changes and nothing is proved of what follows. Safe. -/
inductive Fault where
  /-- `ST.halt` is set: no receiver step and no TX step is enabled until SYS.RESET (R39). Raised by RX.STEP, END_OF_STREAM,
  DELIVER, FRAME.SEND. Safe. -/
  | halted
  /-- `RX.phase = DONE`: no receiver step until a reset or a reopen (R38, R152). Raised by RX.STEP, END_OF_STREAM, DELIVER. Safe. -/
  | receiverDone
  /-- `RX.phase = DESYNC`: no receiver step until a reset (R38, R149). Raised by RX.STEP, END_OF_STREAM, DELIVER. Safe. -/
  | receiverDesync
  /-- The RX.STEP of the other mode (R148 needs `CFG.MODE = FRAMED`, R150 needs `PASSIVE`). Raised by RX.STEP. Safe. -/
  | wrongMode
  /-- A collecting phase of the other mode (R27); no run from a reset reaches it. Raised by RX.STEP, END_OF_STREAM, DELIVER. Safe. -/
  | wrongPhase
  /-- SYS.REOPEN outside phase `DONE` (R266). Raised by SYS.REOPEN. Safe. -/
  | notDone
  deriving DecidableEq, Repr

/-- Why the model gives no meaning. -/
inductive Refusal where
  /-- An instruction whose arm has no meaning yet. Raised by the dispatch alone. Safe. -/
  | notModelled (mnemonic : String)
  /-- What stands at the request port is no instruction of the table. Raised by the fetch. Safe. -/
  | undecodable (e : DecodeError)
  /-- FRAME.FORMAT or FRAME.SEND of more than 65535 payload bytes, "not a possible operand" (R141). Raised by these two. Safe. -/
  | payloadTooLong
  deriving DecidableEq, Repr

/-- The state of the block, its two streams and its host boundary. -/
structure State where
  /-- `CFG` (R29): set by the host before the run, written by no operation. -/
  cfg : Cfg
  /-- `CRC.acc` (R22). -/
  crcAcc : U16
  /-- `M.seq` (R23). -/
  mSeq : U16
  /-- `M.from` (R23). -/
  mFrom : U32
  /-- `M.to` (R23). -/
  mTo : U32
  /-- `M.fn` (R23). -/
  mFn : U16
  /-- `M.len` (R23). -/
  mLen : U16
  /-- `M.leninv` (R23). -/
  mLenInv : U16
  /-- `M.cks` (R23). -/
  mCks : U16
  /-- `PAY`, the payload buffer (R24). -/
  pay : Bytes
  /-- `RX.phase` (R27). -/
  rxPhase : Phase
  /-- `RX.need` (R27). -/
  rxNeed : Nat
  /-- `RX.buf` (R36). -/
  rxBuf : Bytes
  /-- `RX.warm` (R37). -/
  rxWarm : Bool
  /-- `ST.code` (R28). -/
  stCode : Code
  /-- The values recorded with `ST.code` (R250, R258 item (2)). -/
  stInfo : Info
  /-- `ST.wire` (R28). -/
  stWire : U16
  /-- `ST.calc` (R28). -/
  stCalc : U16
  /-- `ST.sub` (R28). -/
  stSub : Nat
  /-- The tags recorded with the `UnknownDeviceType` outcomes that `ST.sub` counts (R250, R255), in the order met. -/
  stTags : List U16
  /-- `ST.partial` (R28). -/
  stPartial : Nat
  /-- `ST.refused` (R28). -/
  stRefused : Bool
  /-- `ST.halt` (R39). -/
  stHalt : Bool
  /-- `TX.busy` (R40). -/
  txBusy : Bool
  /-- `RXS`: the events of the input stream not yet read, then endless `Empty` (R50, R105). -/
  rxs : List Event
  /-- `TXS`: the bytes written (R50, R60). -/
  txs : Bytes
  /-- The command context the host supplies to the receiver's own steps (R153, R293). -/
  hostCtx : Option U16
  /-- The host's pending requests, the next one first (R104, R263). -/
  port : List Cmd
  /-- What the last operation handed over (R263). -/
  ret : Ret
  /-- The model's own: how many free values have been drawn (`freeMessage`, log entry 10). -/
  freeIdx : Nat
  deriving DecidableEq, Repr

/-- How an operation that may raise ends (R10): with a value, or raised. -/
inductive Res (α : Type) where
  | ok (a : α) (s : State)
  | raised (s : State)
  deriving DecidableEq, Repr

/-- The phase the receiver starts in (R27). -/
def Phase.start : Mode → Phase
  | .framed => .head
  | .passive => .scan

/-- The state after SYS.RESET under a configuration, with nothing on the streams and nothing requested (R280 and the table of
10_state.md section 7). -/
def State.resetOf (cfg : Cfg) : State where
  cfg := cfg
  crcAcc := 0x5A5A
  mSeq := 0
  mFrom := 0
  mTo := 0
  mFn := 0
  mLen := 0
  mLenInv := 0
  mCks := 0
  pay := []
  rxPhase := Phase.start cfg.mode
  rxNeed := if cfg.mode = .framed then 20 else 0
  rxBuf := []
  rxWarm := decide (cfg.mode = .passive)
  stCode := .ok
  stInfo := .none
  stWire := 0
  stCalc := 0
  stSub := 0
  stTags := []
  stPartial := 0
  stRefused := false
  stHalt := false
  txBusy := false
  rxs := []
  txs := []
  hostCtx := none
  port := []
  ret := .none
  freeIdx := 0

/-- The machine right after reset. `CFG` is an input of the host (R29), not a reset value: the example configuration stands
there. -/
def State.reset : State := State.resetOf Cfg.sample

end Sys2Proof.Machine
end

