-- ==== Sys2Proof/Machine/Flags.lean ====
section
/-! DEFINITION. The status fields (R28): the numbers of the outcome kinds and which of them the error policy applies to (R250),
and the writes of `ST.code`. -/

namespace Sys2Proof.Machine

/-- The numeric code of an outcome kind (R250). -/
def Code.number : Code → Nat
  | .ok => 0
  | .noMessage => 1
  | .shortMessage => 2
  | .lengthMismatch => 3
  | .checksumMismatch => 4
  | .unknownFunction => 5
  | .unknownDeviceType => 6
  | .transportFault => 7
  | .allZeroDiscard => 8
  | .warmupDiscard => 9
  | .badMagic => 10
  | .sizeMismatch => 11
  | .payloadSize => 12
  | .subRecordTruncated => 13
  | .mapMiss => 14

/-- The spec's own refusals, which set `ST.refused` (R257). -/
def Code.isRefusal : Code → Bool
  | .badMagic => true
  | .sizeMismatch => true
  | .payloadSize => true
  | .subRecordTruncated => true
  | .ok => false
  | .noMessage => false
  | .shortMessage => false
  | .lengthMismatch => false
  | .checksumMismatch => false
  | .unknownFunction => false
  | .unknownDeviceType => false
  | .transportFault => false
  | .allZeroDiscard => false
  | .warmupDiscard => false
  | .mapMiss => false

/-- The kinds marked "yes" in the last column of R250: raised to the error boundary, subject to `CFG.HALT_ON_ERROR`. -/
def Code.isError : Code → Bool
  | .lengthMismatch => true
  | .checksumMismatch => true
  | .unknownFunction => true
  | .badMagic => true
  | .sizeMismatch => true
  | .payloadSize => true
  | .subRecordTruncated => true
  | .ok => false
  | .noMessage => false
  | .shortMessage => false
  | .unknownDeviceType => false
  | .transportFault => false
  | .allZeroDiscard => false
  | .warmupDiscard => false
  | .mapMiss => false

/-- `ST.code <- k` for a kind that is not raised: nothing is recorded with it. -/
def State.setCode (k : Code) (s : State) : State := { s with stCode := k, stInfo := .none }

/-- The name look-up of a decoded operating mode or status has no entry (R185, R186). -/
def Result.missed : Result → Bool
  | .opMode _ none => true
  | .status _ none => true
  | .opMode _ (some _) => false
  | .status _ (some _) => false
  | .empty => false
  | .param _ => false
  | .version _ _ => false
  | .offLen _ _ _ => false
  | .long _ => false
  | .valType _ _ => false
  | .paramVal _ _ => false
  | .time _ _ => false
  | .statusVec _ => false
  | .devData _ _ => false

/-- The decoder's own flag: `MapMiss` when the look-up has no entry, nothing otherwise (R185, R186). -/
def State.flagMiss (r : Result) (s : State) : State := if r.missed then s.setCode .mapMiss else s

/-- DISPATCH's last flag write: `ST.code <- OK` unless the decoder set `MapMiss` (R181). -/
def State.flagDecoded (r : Result) (s : State) : State := if r.missed then s else s.setCode .ok

end Sys2Proof.Machine
end

