-- ==== Sys2Proof/Machine/Ops.lean ====
section
/-! DEFINITION. The shared operations: taking an error (R258), handing a value over, the stream primitives (R56 to R60), the
receiver's enabling conditions (R38, R39), and the fetch of the next request. -/

namespace Sys2Proof.Machine

/-- The outcome of a step of this machine. -/
abbrev Out := Host.Outcome State Fault Refusal

/-! ### Errors -/

/-- Error entry (R258, R10, R257): the outcome kind and its recorded values are written, a refusal of the spec's own sets
`ST.refused`, and `ST.halt` is set when the kind is subject to `CFG.HALT_ON_ERROR` and that is true. No result is handed over;
nothing else changes. There is no return operation (R259): with `ST.halt` clear the next step simply runs, with it set only
SYS.RESET leaves the halt. -/
def raiseError (k : Code) (info : Info) (s : State) : State :=
  { s with
    stCode := k
    stInfo := info
    stRefused := s.stRefused || k.isRefusal
    stHalt := s.stHalt || (k.isError && s.cfg.haltOnError)
    ret := .none }

/-- The next operation on a value, unless the first one raised: a raise ends the pipeline at once (R153). -/
def Res.bind {α β : Type} (r : Res α) (f : α → State → Res β) : Res β :=
  match r with
  | .ok a s => f a s
  | .raised s => .raised s

/-- A function on the value. -/
def Res.map {α β : Type} (f : α → β) (r : Res α) : Res β :=
  match r with
  | .ok a s => .ok (f a) s
  | .raised s => .raised s

/-- The operation's value is handed to the host; a raised operation has handed over nothing. Either way it is a next state. -/
def handOver (r : Res Ret) : Out :=
  match r with
  | .ok v s => .next { s with ret := v }
  | .raised s => .next s

/-! ### Streams -/

/-- What one single read yields (R56, R57): a byte, a retry that holds the receiver, or end-of-stream. -/
inductive Read where
  | byte (b : Byte)
  | hold
  | eos
  deriving DecidableEq, Repr

/-- The next event of `RXS`, consumed (R58). A list that has run out stands for endless `Empty` events (R105, `END`). -/
def takeEvent (s : State) : Event × State :=
  match s.rxs with
  | [] => (.empty, s)
  | e :: rest => (e, { s with rxs := rest })

/-- The meaning of an event (R57): `Empty` holds on a live transport and ends the stream on a finite one; `Fault` ends it. -/
def readingOf (live : Bool) : Event → Read
  | .byte b => .byte b
  | .empty => if live then .hold else .eos
  | .fault => .eos

/-- One single-event read (R56, R57). -/
def readOne (s : State) : Read × State := (readingOf s.cfg.live (takeEvent s).1, (takeEvent s).2)

/-- The result of `StreamRead(n)` (R56); `waiting` is a live transport that has supplied no further event yet (R57). -/
inductive ReadResult where
  | bytes (got : Bytes) (rest : List Event)
  | eos (count : Nat) (rest : List Event)
  | waiting (got : Bytes)
  deriving DecidableEq, Repr

/-- `StreamRead(n)` as `n` single-event reads in order (R56), on the events of a stream; `got` are the bytes so far. -/
def streamRead (live : Bool) (n : Nat) (events : List Event) (got : Bytes) : ReadResult :=
  match n, events with
  | 0, events => .bytes got events
  | _ + 1, [] => if live then .waiting got else .eos got.length []
  | n + 1, e :: rest =>
    match readingOf live e with
    | .byte b => streamRead live n rest (got ++ [b])
    | .hold => streamRead live (n + 1) rest got
    | .eos => .eos got.length rest
  termination_by structural events

/-- `StreamWrite(s)` (R60): one indivisible append. -/
def streamWrite (b : Bytes) (s : State) : State := { s with txs := s.txs ++ b }

/-! ### When the receiver may step -/

/-- Why the framed receiver may not step (R38, R39, R148), if it may not. -/
def framedBlocked (s : State) : Option Fault :=
  if s.stHalt then some .halted
  else if s.cfg.mode ≠ .framed then some .wrongMode
  else
    match s.rxPhase with
    | .head => none
    | .tail => none
    | .scan => some .wrongPhase
    | .done => some .receiverDone
    | .desync => some .receiverDesync

/-- Why the passive receiver may not step (R38, R39, R150), if it may not. -/
def passiveBlocked (s : State) : Option Fault :=
  if s.stHalt then some .halted
  else if s.cfg.mode ≠ .passive then some .wrongMode
  else
    match s.rxPhase with
    | .scan => none
    | .head => some .wrongPhase
    | .tail => some .wrongPhase
    | .done => some .receiverDone
    | .desync => some .receiverDesync

/-- Why the receiver of the configured mode may not step, if it may not. -/
def receiverBlocked (s : State) : Option Fault :=
  match s.cfg.mode with
  | .framed => framedBlocked s
  | .passive => passiveBlocked s

/-! ### Fetch -/

/-- The receiver's own step when the host requests nothing (R20, R282): the RX.STEP of the configured mode with the host's
command context. -/
def receiverInstr (s : State) : Instr :=
  match s.cfg.mode with
  | .framed => .rxStepFramed s.hostCtx
  | .passive => .rxStepPassive s.hostCtx

/-- The next instruction and the state it runs in: the host's first pending request, taken from the port; with no request
pending, the receiver's own step. -/
def fetch (s : State) : Except DecodeError (Instr × State) :=
  match s.port with
  | [] => .ok (receiverInstr s, s)
  | c :: rest =>
    match decode s.cfg c with
    | .ok i => .ok (i, { s with port := rest })
    | .error e => .error e

/-- The state with a command as the next request. -/
def State.request (c : Cmd) (s : State) : State := { s with port := c :: s.port }

end Sys2Proof.Machine
end

