-- ==== Sys2Proof/Machine/Frame.lean ====
section
/-! DEFINITION. The frame unit without its receivers (R140 to R147): COVERAGE, FRAME.FORMAT, FRAME.SEND, FRAME.PARSE, FRAME.FILTER,
and the frame row. -/

namespace Sys2Proof.Machine

/-- `COVERAGE(seq, from, to, fn, payload)` (R140, R84): the scalar fields big-endian, then the payload. -/
def coverageOf (seq : U16) (src dst : U32) (fn : U16) (payload : Bytes) : Bytes :=
  encBE16 seq ++ encBE32 src ++ encBE32 dst ++ encBE16 fn ++ payload

/-- The length field of a payload (R141). -/
def lengthField (payload : Bytes) : U16 := BitVec.ofNat 16 payload.length

/-- The frame FRAME.FORMAT returns once the checksum is known (R141). -/
def frameWith (seq : U16) (src dst : U32) (fn : U16) (payload : Bytes) (cks : U16) : Bytes :=
  encodeFrame (lengthField payload) (not16 (lengthField payload)) seq src dst fn payload cks

/-- `FRAME.FORMAT` as a function of its operands (R141). -/
def formatOf (seq : U16) (src dst : U32) (fn : U16) (payload : Bytes) : Bytes :=
  frameWith seq src dst fn payload (crcOf (coverageOf seq src dst fn payload))

/-- FRAME.FORMAT on the state (R141): the frame, with the checksum the CRC unit leaves in `CRC.acc`. -/
def formatFrame (seq : U16) (src dst : U32) (fn : U16) (payload : Bytes) (s : State) : Bytes × State :=
  (frameWith seq src dst fn payload (crcRun (coverageOf seq src dst fn payload) s).crcAcc,
    crcRun (coverageOf seq src dst fn payload) s)

/-- What FRAME.PARSE returns when it does not raise (R143). -/
inductive Parsed where
  | empty
  | message (seq : U16) (src dst : U32) (fn : U16) (payload : Bytes)
  deriving DecidableEq, Repr

/-- The null message of a short body (R143, R251). -/
def clearMessage (s : State) : State :=
  { s with mSeq := 0, mFrom := 0, mTo := 0, mFn := 0, mLen := 0, mLenInv := 0, mCks := 0, pay := [] }

/-- The Message registers and `PAY` hold no message after FRAME.PARSE has raised (R143): the next free value, its bytes no more
than `PAY` has room for (R24). -/
def voidMessage (s : State) : State :=
  let m := freeMessage s.freeIdx
  { s with
    mSeq := m.seq, mFrom := m.src, mTo := m.dst, mFn := m.fn, mLen := m.len, mLenInv := m.lenInv, mCks := m.cks
    pay := m.pay.take maxPayload, freeIdx := s.freeIdx + 1 }

/-- FRAME.PARSE raises (R143, R258). -/
def raiseParse (k : Code) (info : Info) (s : State) : Res Parsed := .raised (raiseError k info (voidMessage s))

/-- FRAME.PARSE's tests and writes after the length pair and the size have been accepted (R143): the checksum. -/
def parseChecked (body : Bytes) (s : State) : Res Parsed :=
  let len := le16 body 0
  let seq := le16 body 4
  let src := le32 body 6
  let dst := le32 body 10
  let fn := le16 body 14
  let payload := (body.drop hdrLen).take len.toNat
  let wire := le16 body (hdrLen + len.toNat)
  let s1 := crcRun (coverageOf seq src dst fn payload) s
  if wire ≠ s1.crcAcc then
    raiseParse .checksumMismatch (.checksums wire s1.crcAcc) { s1 with stWire := wire, stCalc := s1.crcAcc }
  else
    .ok (.message seq src dst fn payload)
      (State.setCode .ok
        { s1 with
          mSeq := seq, mFrom := src, mTo := dst, mFn := fn
          mLen := len, mLenInv := le16 body 2, mCks := wire, pay := payload })

/-- FRAME.PARSE (R143, R144): short body, length pair, size, checksum, in that order. -/
def parseBody (body : Bytes) (s : State) : Res Parsed :=
  if body.length < minBody then
    .ok .empty (State.setCode .shortMessage (clearMessage s))
  else if le16 body 0 ≠ not16 (le16 body 2) then
    raiseParse .lengthMismatch (.lengths (le16 body 0) (le16 body 2)) s
  else if body.length ≠ minBody + (le16 body 0).toNat then
    raiseParse .sizeMismatch (.sizes body.length (minBody + (le16 body 0).toNat)) s
  else parseChecked body s

/-- What FRAME.PARSE hands over. -/
def Parsed.toRet : Parsed → Ret
  | .empty => .empty
  | .message seq src dst fn payload => .message seq src dst fn payload

/-! ### Meanings -/

/-- COVERAGE (R140): it writes no state. -/
def execCoverage (seq : U16) (src dst : U32) (fn : U16) (payload : Bytes) (s : State) : Out :=
  handOver (.ok (.bytes (coverageOf seq src dst fn payload)) s)

/-- FRAME.FORMAT (R141). A longer payload "is not a possible operand". -/
def execFrameFormat (seq : U16) (src dst : U32) (fn : U16) (payload : Bytes) (s : State) : Out :=
  if maxPayload < payload.length then .refused .payloadTooLong
  else
    handOver (.ok (.bytes (formatFrame seq src dst fn payload s).1) (formatFrame seq src dst fn payload s).2)

/-- FRAME.SEND (R142): `TX.busy` is set around the one indivisible append (R60). -/
def sendFrame (seq : U16) (src dst : U32) (fn : U16) (payload : Bytes) (s : State) : State :=
  let r := formatFrame seq src dst fn payload { s with txBusy := true }
  { streamWrite r.1 r.2 with txBusy := false }

/-- FRAME.SEND (R142): not enabled while `ST.halt` is set. -/
def execFrameSend (seq : U16) (src dst : U32) (fn : U16) (payload : Bytes) (s : State) : Out :=
  if s.stHalt then .fault .halted
  else if maxPayload < payload.length then .refused .payloadTooLong
  else handOver (.ok .none (sendFrame seq src dst fn payload s))

/-- FRAME.PARSE (R143). -/
def execFrameParse (body : Bytes) (s : State) : Out := handOver ((parseBody body s).map Parsed.toRet)

/-- FRAME.FILTER (R147). -/
def execFrameFilter (unit : Bytes) (s : State) : Out :=
  if allZero unit then handOver (.ok .drop (State.setCode .allZeroDiscard s))
  else handOver (.ok .pass s)

/-- The frame row: its meaning is FRAME.PARSE of the bytes that follow the magic (semantics rule R143). -/
def execFrame (len lenInv seq : U16) (src dst : U32) (fn : U16) (payload : Bytes) (cks : U16) (s : State) : Out :=
  handOver ((parseBody ((encodeFrame len lenInv seq src dst fn payload cks).drop 4) s).map Parsed.toRet)

end Sys2Proof.Machine
end

