-- ==== Sys2Proof/Machine/DevData.lean ====
section
/-! DEFINITION. The device-data decoder (R220 to R232): the sub-decoders, the walker, and the sub-record rows. -/

namespace Sys2Proof.Machine

/-- A sub-payload whose layout is a parameter (R99, R220): uncut when the model is not given the layout, its ordered fields
when it is, and a `PayloadSize` refusal when the size is not the layout's. -/
def openRecord (layout : Option Layout) (cls : SizeClass) (mk : SubBody → DevRec) (sub : Bytes) (s : State) : Res DevRec :=
  match layout with
  | none => .ok (mk (.uncut sub)) s
  | some l =>
    match cutFields l sub with
    | some fields => .ok (mk (.cut fields)) s
    | none => .raised (raiseError .payloadSize (.payloadSize cls sub.length l.size) s)

/-- DEV.OPT_LEGACY (R225). -/
def optLegacy (id : U32) (sub : Bytes) (s : State) : Res DevRec :=
  openRecord s.cfg.layoutOptLegacy .sOptLegacy (.optLegacy id) sub s

/-- DEV.INVERTER (R226). -/
def inverter (id : U32) (sub : Bytes) (s : State) : Res DevRec :=
  openRecord s.cfg.layoutInverter .sInverter (.inverter id) sub s

/-- DEV.EVENT (R229). -/
def eventRecord (id : U32) (sub : Bytes) (s : State) : Res DevRec :=
  openRecord s.cfg.layoutEvent .sEvent (.event id) sub s

/-- The fields of a compact optimizer record (R98, R227). -/
def compactRecord (bits : CompactBits) (id : U32) (sub : Bytes) : DevRec :=
  .optCompact id (le32 sub 0) (le16 sub 4)
    (compactField (le32 sub 6) bits.vpanLo 10) (compactField (le32 sub 6) bits.voptLo 10)
    (compactField (le32 sub 6) bits.imodLo 12) (le16 sub 10) (signed8 (byteAt sub 12)) 0

/-- DEV.OPT_COMPACT (R227). -/
def optCompact (id : U32) (sub : Bytes) (s : State) : Res DevRec :=
  if sub.length < compactLen then
    .raised (raiseError .payloadSize (.payloadSize .sOptCompact sub.length compactLen) s)
  else .ok (compactRecord s.cfg.compactBits id sub) s

/-- DEV.SKIP (R230): the outcome `UnknownDeviceType(tag)` is counted in `ST.sub` and its tag recorded (R250, R255). -/
def skipRecord (tag : U16) (s : State) : State := { s with stSub := s.stSub + 1, stTags := s.stTags ++ [tag] }

/-- The skip count and its tags cleared, as the walker starts (R221). -/
def clearSkips (s : State) : State := { s with stSub := 0, stTags := [] }

/-- The tag dispatch of one sub-record (R221, R222): a record, or nothing for a tag that is not recognised. -/
def subRecord (tag : U16) (id : U32) (sub : Bytes) (s : State) : Res (Option DevRec) :=
  if tag = tagOptLegacy then (optLegacy id sub s).map some
  else if tag = tagOptCompact then (optCompact id sub s).map some
  else if tag = tagInverter then (inverter id sub s).map some
  else if tag = tagEvent then (eventRecord id sub s).map some
  else .ok none (skipRecord tag s)

/-- The walker's loop (R221). `rest` is `pay[pos..]`; `fuel` bounds the iterations, of which each takes at least eight bytes
(R196). -/
def walk (fuel pos : Nat) (rest : Bytes) (out : List DevRec) (s : State) : Res (List DevRec) :=
  match fuel with
  | 0 => .ok out s
  | fuel + 1 =>
    if rest.isEmpty then .ok out s
    else
      match payRead rest 0 subHdrLen with
      | none => .raised (raiseError .subRecordTruncated (.truncated pos rest.length subHdrLen) s)
      | some hdr =>
        match payRead rest subHdrLen (le16 hdr 6).toNat with
        | none =>
          .raised (raiseError .subRecordTruncated (.truncated pos (rest.length - subHdrLen) (le16 hdr 6).toNat) s)
        | some sub =>
          (subRecord (le16 hdr 0) (normId (le32 hdr 2)) sub s).bind fun r s' =>
            walk fuel (pos + subHdrLen + (le16 hdr 6).toNat) (rest.drop (subHdrLen + (le16 hdr 6).toNat))
              (out ++ r.toList) s'

/-- DEC.DEVDATA (R221). -/
def decDevdata (pay : Bytes) (s : State) : Res Result :=
  (walk pay.length 0 pay [] (clearSkips s)).bind fun out s' => .ok (.devData out s'.stSub) s'

/-! ### Meanings -/

/-- DEC.DEVDATA (R221), called by name. -/
def execDecDevdata (pay : Bytes) (s : State) : Out := handOver ((decDevdata pay s).map Ret.result)

/-- DEV.NORMID (R223). -/
def execDevNormid (devid : U32) (s : State) : Out := handOver (.ok (.id (normId devid)) s)

/-- DEV.OPT_LEGACY (R225), called by name. -/
def execDevOptLegacy (id : U32) (sub : Bytes) (s : State) : Out := handOver ((optLegacy id sub s).map Ret.record)

/-- DEV.INVERTER (R226), called by name. -/
def execDevInverter (id : U32) (sub : Bytes) (s : State) : Out := handOver ((inverter id sub s).map Ret.record)

/-- DEV.OPT_COMPACT (R227), called by name. -/
def execDevOptCompact (id : U32) (sub : Bytes) (s : State) : Out := handOver ((optCompact id sub s).map Ret.record)

/-- DEV.EVENT (R229), called by name. -/
def execDevEvent (id : U32) (sub : Bytes) (s : State) : Out := handOver ((eventRecord id sub s).map Ret.record)

/-- DEV.SKIP (R230), called by name: of the operands only the tag is recorded. -/
def execDevSkip (tag : U16) (_id : U32) (_sublen : U16) (s : State) : Out := handOver (.ok .none (skipRecord tag s))

/-- What one sub-record hands over: its record, or nothing when it was skipped. -/
def recordRet : Option DevRec → Ret
  | some d => .record d
  | none => .none

/-- The sub-record with tag `0x0000` (R222, R225). -/
def execSubOptLegacy (devid : U32) (sub : Bytes) (s : State) : Out :=
  handOver ((subRecord tagOptLegacy (normId devid) sub s).map recordRet)

/-- The sub-record with tag `0x0080` (R222, R227). -/
def execSubOptCompact (devid : U32) (sub : Bytes) (s : State) : Out :=
  handOver ((subRecord tagOptCompact (normId devid) sub s).map recordRet)

/-- The sub-record with tag `0x0010` (R222, R226). -/
def execSubInverter (devid : U32) (sub : Bytes) (s : State) : Out :=
  handOver ((subRecord tagInverter (normId devid) sub s).map recordRet)

/-- The sub-record with tag `0x0300` (R222, R229). -/
def execSubEvent (devid : U32) (sub : Bytes) (s : State) : Out :=
  handOver ((subRecord tagEvent (normId devid) sub s).map recordRet)

/-- A sub-record with any other tag (R222, R230). -/
def execSubOther (tag : U16) (devid : U32) (sub : Bytes) (s : State) : Out :=
  handOver ((subRecord tag (normId devid) sub s).map recordRet)

end Sys2Proof.Machine
end

