-- ==== Sys2Proof/Machine/Payload.lean ====
section
/-! DEFINITION. The dispatcher and the fixed-layout decoders (R180 to R198), and the message-class rows. -/

namespace Sys2Proof.Machine

/-- `PayloadSize(class, have, want)` (R195). -/
def payloadSizeError (k : PlainClass) (pay : Bytes) (want : Nat) (s : State) : State :=
  raiseError .payloadSize (.payloadSize (.cls k) pay.length want) s

/-- A layout that requires exactly its size (R195). -/
def fixedSize (k : PlainClass) (want : Nat) (pay : Bytes) (r : Result) (s : State) : Res Result :=
  if pay.length ≠ want then .raised (payloadSizeError k pay want s) else .ok r s

/-! ### Decoders -/

/-- DEC.NONE (R184): the payload is not read. -/
def decNone (_pay : Bytes) (s : State) : Res Result := .ok .empty s

/-- DEC.OPMODE's result (R185). -/
def opModeResult (cfg : Cfg) (pay : Bytes) : Result :=
  .opMode (signed32 (le32 pay 0)) (cfg.opmodeName (signed32 (le32 pay 0)))

/-- DEC.OPMODE (R185). -/
def decOpmode (pay : Bytes) (s : State) : Res Result :=
  (fixedSize .opmode 4 pay (opModeResult s.cfg pay) s).bind fun r s' => .ok r (s'.flagMiss r)

/-- DEC.STATUS's result (R186). -/
def statusResult (cfg : Cfg) (pay : Bytes) : Result := .status (le16 pay 0) (cfg.statusName (le16 pay 0))

/-- DEC.STATUS (R186). -/
def decStatus (pay : Bytes) (s : State) : Res Result :=
  (fixedSize .status 2 pay (statusResult s.cfg pay) s).bind fun r s' => .ok r (s'.flagMiss r)

/-- DEC.PARAM (R187). -/
def decParam (pay : Bytes) (s : State) : Res Result := fixedSize .param 2 pay (.param (le16 pay 0)) s

/-- DEC.VERSION (R188). -/
def decVersion (pay : Bytes) (s : State) : Res Result := fixedSize .version 4 pay (.version (le16 pay 0) (le16 pay 2)) s

/-- DEC.OFFLEN (R189): eight bytes are a minimum, and `length` is not compared with the data. -/
def decOfflen (pay : Bytes) (s : State) : Res Result :=
  if pay.length < 8 then .raised (payloadSizeError .offlen pay 8 s)
  else .ok (.offLen (le32 pay 0) (le32 pay 4) (pay.drop 8)) s

/-- DEC.LONG (R190). -/
def decLong (pay : Bytes) (s : State) : Res Result := fixedSize .long 4 pay (.long (le32 pay 0)) s

/-- DEC.VALTYPE (R191). -/
def decValtype (pay : Bytes) (s : State) : Res Result := fixedSize .valtype 6 pay (.valType (le32 pay 0) (le16 pay 4)) s

/-- DEC.PARAMVAL (R192). -/
def decParamval (pay : Bytes) (s : State) : Res Result := fixedSize .paramval 6 pay (.paramVal (le16 pay 0) (le32 pay 2)) s

/-- DEC.TIME (R193). -/
def decTime (pay : Bytes) (s : State) : Res Result :=
  fixedSize .time 8 pay (.time (le32 pay 0) (signed32 (le32 pay 4))) s

/-- DEC.STATUSVEC (R194). -/
def decStatusvec (pay : Bytes) (s : State) : Res Result :=
  if pay.length = 0 then .ok (.statusVec []) s
  else
    fixedSize .statusvec 14 pay
      (.statusVec
        [le16 pay 0, le16 pay 2, le16 pay 4, le16 pay 6, le16 pay 8, le16 pay 10, le16 pay 12]) s

/-! ### Dispatch -/

/-- The end of DISPATCH (R181): the flag, and `Decoded(fn, r)`. -/
def finishDispatch (fn : U16) (r : Res Result) : Res Ret :=
  r.bind fun v s => .ok (.decoded fn v) (s.flagDecoded v)

/-- `UnknownFunction(fn)` (R254). -/
def unknownFunction (fn : U16) (s : State) : Res Ret := .raised (raiseError .unknownFunction (.function fn) s)

/-- DISPATCH's case analysis on the resolved class (R181): every class is listed, no default. -/
def dispatchClass (k : PlainClass) (fn : U16) (pay : Bytes) (s : State) : Res Ret :=
  match k with
  | .unknown => unknownFunction fn s
  | .zeroarg => finishDispatch fn (decNone pay s)
  | .encrypted => finishDispatch fn (decNone pay s)
  | .opmode => finishDispatch fn (decOpmode pay s)
  | .status => finishDispatch fn (decStatus pay s)
  | .param => finishDispatch fn (decParam pay s)
  | .version => finishDispatch fn (decVersion pay s)
  | .offlen => finishDispatch fn (decOfflen pay s)
  | .long => finishDispatch fn (decLong pay s)
  | .valtype => finishDispatch fn (decValtype pay s)
  | .paramval => finishDispatch fn (decParamval pay s)
  | .time => finishDispatch fn (decTime pay s)
  | .statusvec => finishDispatch fn (decStatusvec pay s)
  | .devdata => finishDispatch fn (decDevdata pay s)

/-- DISPATCH (R181): the class, the context resolved, the decoder. -/
def dispatchMessage (fn : U16) (pay : Bytes) (ctx : Option U16) (s : State) : Res Ret :=
  dispatchClass (s.cfg.resolveClass fn ctx) fn pay s

/-! ### Meanings: operations called by name -/

/-- DISPATCH (R181). -/
def execDispatch (fn : U16) (pay : Bytes) (ctx : Option U16) (s : State) : Out := handOver (dispatchMessage fn pay ctx s)

/-- RESOLVE_CTX (R182). -/
def execResolveCtx (ctx : Option U16) (s : State) : Out := handOver (.ok (.cls (s.cfg.resolveCtx ctx)) s)

/-- DEC.NONE (R184). -/
def execDecNone (pay : Bytes) (s : State) : Out := handOver ((decNone pay s).map Ret.result)

/-- DEC.OPMODE (R185). -/
def execDecOpmode (pay : Bytes) (s : State) : Out := handOver ((decOpmode pay s).map Ret.result)

/-- DEC.STATUS (R186). -/
def execDecStatus (pay : Bytes) (s : State) : Out := handOver ((decStatus pay s).map Ret.result)

/-- DEC.PARAM (R187). -/
def execDecParam (pay : Bytes) (s : State) : Out := handOver ((decParam pay s).map Ret.result)

/-- DEC.VERSION (R188). -/
def execDecVersion (pay : Bytes) (s : State) : Out := handOver ((decVersion pay s).map Ret.result)

/-- DEC.OFFLEN (R189). -/
def execDecOfflen (pay : Bytes) (s : State) : Out := handOver ((decOfflen pay s).map Ret.result)

/-- DEC.LONG (R190). -/
def execDecLong (pay : Bytes) (s : State) : Out := handOver ((decLong pay s).map Ret.result)

/-- DEC.VALTYPE (R191). -/
def execDecValtype (pay : Bytes) (s : State) : Out := handOver ((decValtype pay s).map Ret.result)

/-- DEC.PARAMVAL (R192). -/
def execDecParamval (pay : Bytes) (s : State) : Out := handOver ((decParamval pay s).map Ret.result)

/-- DEC.TIME (R193). -/
def execDecTime (pay : Bytes) (s : State) : Out := handOver ((decTime pay s).map Ret.result)

/-- DEC.STATUSVEC (R194). -/
def execDecStatusvec (pay : Bytes) (s : State) : Out := handOver ((decStatusvec pay s).map Ret.result)

/-! ### Meanings: the message-class rows (R101 level 2), each its arm of DISPATCH -/

/-- K_ZEROARG (R184). -/
def execKZeroarg (f : U16) (pay : Bytes) (s : State) : Out := handOver (dispatchClass .zeroarg f pay s)

/-- K_ENCRYPTED (R184). -/
def execKEncrypted (f : U16) (pay : Bytes) (s : State) : Out := handOver (dispatchClass .encrypted f pay s)

/-- K_CTX (R182): the class is resolved from the command context. -/
def execKCtx (f : U16) (pay : Bytes) (ctx : Option U16) (s : State) : Out :=
  handOver (dispatchClass (s.cfg.resolveCtx ctx) f pay s)

/-- K_OPMODE (R185). -/
def execKOpmode (f : U16) (pay : Bytes) (s : State) : Out := handOver (dispatchClass .opmode f pay s)

/-- K_STATUS (R186). -/
def execKStatus (f : U16) (pay : Bytes) (s : State) : Out := handOver (dispatchClass .status f pay s)

/-- K_PARAM (R187). -/
def execKParam (f : U16) (pay : Bytes) (s : State) : Out := handOver (dispatchClass .param f pay s)

/-- K_VERSION (R188). -/
def execKVersion (f : U16) (pay : Bytes) (s : State) : Out := handOver (dispatchClass .version f pay s)

/-- K_OFFLEN (R189). -/
def execKOfflen (f : U16) (pay : Bytes) (s : State) : Out := handOver (dispatchClass .offlen f pay s)

/-- K_LONG (R190). -/
def execKLong (f : U16) (pay : Bytes) (s : State) : Out := handOver (dispatchClass .long f pay s)

/-- K_VALTYPE (R191). -/
def execKValtype (f : U16) (pay : Bytes) (s : State) : Out := handOver (dispatchClass .valtype f pay s)

/-- K_PARAMVAL (R192). -/
def execKParamval (f : U16) (pay : Bytes) (s : State) : Out := handOver (dispatchClass .paramval f pay s)

/-- K_TIME (R193). -/
def execKTime (f : U16) (pay : Bytes) (s : State) : Out := handOver (dispatchClass .time f pay s)

/-- K_STATUSVEC (R194). -/
def execKStatusvec (f : U16) (pay : Bytes) (s : State) : Out := handOver (dispatchClass .statusvec f pay s)

/-- K_DEVDATA (R221). -/
def execKDevdata (f : U16) (pay : Bytes) (s : State) : Out := handOver (dispatchClass .devdata f pay s)

/-- K_UNKNOWN (R181, R254): the error is taken. -/
def execKUnknown (f : U16) (pay : Bytes) (s : State) : Out := handOver (dispatchClass .unknown f pay s)

end Sys2Proof.Machine
end

