-- ==== Sys2Proof/Machine/Rx.lean ====
section
/-! DEFINITION. The receivers (R148 to R153): RX.STEP in both modes, END_OF_STREAM and DELIVER. -/

namespace Sys2Proof.Machine

/-- END_OF_STREAM (R152): what was collected is thrown away and counted. -/
def endStream (s : State) : Res Ret :=
  .ok .noMessage
    (State.setCode .noMessage { s with stPartial := s.rxBuf.length, rxBuf := [], rxPhase := .done })

/-- `BadMagic` (R149): the phase becomes `DESYNC`, which is sticky, and the error is raised. -/
def badMagic (unit : Bytes) (s : State) : State :=
  raiseError .badMagic (.found (unit.take 4)) { s with rxPhase := .desync }

/-- The last stages of the pipeline (R153): PARSE and DISPATCH; an `Empty` message is not dispatched (D9). -/
def parseAndDispatch (body : Bytes) (ctx : Option U16) (s : State) : Res Ret :=
  (parseBody body s).bind fun p s' =>
    match p with
    | .empty => .ok .empty s'
    | .message _ _ _ _ _ => dispatchMessage s'.mFn s'.pay ctx s'

/-- DELIVER (R153): filter, magic check in framed mode, parse, dispatch. -/
def deliverUnit (unit : Bytes) (ctx : Option U16) (s : State) : Res Ret :=
  if allZero unit then .ok .none (State.setCode .allZeroDiscard s)
  else
    match s.cfg.mode with
    | .framed =>
      if unit.take 4 ≠ magic then .raised (badMagic unit s) else parseAndDispatch (unit.drop 4) ctx s
    | .passive => parseAndDispatch unit ctx s

/-- One byte in framed mode (R148). -/
def framedByte (b : Byte) (ctx : Option U16) (s : State) : Res Ret :=
  let buf := s.rxBuf ++ [b]
  let need := s.rxNeed - 1
  if need ≠ 0 then .ok .none { s with rxBuf := buf, rxNeed := need }
  else if s.rxPhase = .head then
    .ok .none { s with rxBuf := buf, rxPhase := .tail, rxNeed := (le16 buf 4).toNat + cksLen }
  else deliverUnit buf ctx { s with rxBuf := [], rxPhase := .head, rxNeed := headLen }

/-- One byte in passive mode (R150, R151). -/
def passiveByte (b : Byte) (ctx : Option U16) (s : State) : Res Ret :=
  let buf := s.rxBuf ++ [b]
  if endsWithMagic buf then
    if s.rxWarm then .ok .none (State.setCode .warmupDiscard { s with rxBuf := [], rxWarm := false })
    else deliverUnit (buf.take (buf.length - 4)) ctx { s with rxBuf := [] }
  else .ok .none { s with rxBuf := buf }

/-- What a receiver does with one read (R148, R150): the byte rule of its mode, nothing while a live transport holds, or
END_OF_STREAM. -/
def receive (onByte : Byte → State → Res Ret) (s : State) : Res Ret :=
  match readOne s with
  | (.byte b, s') => onByte b s'
  | (.hold, s') => .ok .none s'
  | (.eos, s') => endStream s'

/-- An operation of the receiver, when it is enabled. -/
def whenEnabled (blocked : Option Fault) (r : Res Ret) : Out :=
  match blocked with
  | some f => .fault f
  | none => handOver r

/-! ### Meanings -/

/-- RX.STEP in framed mode (R148). -/
def execRxStepFramed (ctx : Option U16) (s : State) : Out :=
  whenEnabled (framedBlocked s) (receive (fun b t => framedByte b ctx t) s)

/-- RX.STEP in passive mode (R150). -/
def execRxStepPassive (ctx : Option U16) (s : State) : Out :=
  whenEnabled (passiveBlocked s) (receive (fun b t => passiveByte b ctx t) s)

/-- END_OF_STREAM (R152), a part of the receiver's step: enabled as the receiver is. -/
def execEndOfStream (s : State) : Out := whenEnabled (receiverBlocked s) (endStream s)

/-- DELIVER (R153), "inside the receiver step that completed it": enabled as the receiver is. -/
def execDeliver (unit : Bytes) (ctx : Option U16) (s : State) : Out :=
  whenEnabled (receiverBlocked s) (deliverUnit unit ctx s)

end Sys2Proof.Machine
end

