-- ==== Sys2Proof/Machine/Sys.lean ====
section
/-! DEFINITION. The system operations (R280, R281, R266): SYS.RESET and SYS.REOPEN. -/

namespace Sys2Proof.Machine

/-- The receiver's collection state as at reset (R280, R266): it depends on `CFG.MODE`. -/
def restartReceiver (s : State) : State :=
  match s.cfg.mode with
  | .framed => { s with rxBuf := [], rxPhase := .head, rxNeed := headLen, rxWarm := false }
  | .passive => { s with rxBuf := [], rxPhase := .scan, rxNeed := 0, rxWarm := true }

/-- SYS.RESET (R280): `CFG`, `RXS` and `TXS` are not touched. -/
def resetBlock (s : State) : State :=
  { restartReceiver s with
    crcAcc := crcInitValue
    mSeq := 0, mFrom := 0, mTo := 0, mFn := 0, mLen := 0, mLenInv := 0, mCks := 0
    pay := []
    stCode := .ok, stInfo := .none, stWire := 0, stCalc := 0, stSub := 0, stTags := [], stPartial := 0
    stRefused := false, stHalt := false, txBusy := false }

/-- SYS.RESET (R280). -/
def execSysReset (s : State) : Out := handOver (.ok .none (resetBlock s))

/-- SYS.REOPEN (R266): a new input stream, a new output stream, the receiver restarted; enabled only in phase `DONE`. -/
def execSysReopen (stream : List Event) (s : State) : Out :=
  if s.rxPhase = .done then handOver (.ok .none { restartReceiver s with rxs := stream, txs := [] })
  else .fault .notDone

end Sys2Proof.Machine
end

