-- ==== Sys2Proof/Machine/Dispatch.lean ====
section
/-! DEFINITION. The dispatch: one arm per constructor of Instr, each one call of its meaning. -/

namespace Sys2Proof.Machine

def exec (i : Instr) (s : State) : Host.Outcome State Fault Refusal :=
  match i with
  | .frame len lenInv seq src dst fn payload cks => Sys2Proof.Machine.execFrame len lenInv seq src dst fn payload cks s
  | .kZeroarg f pay => Sys2Proof.Machine.execKZeroarg f pay s
  | .kEncrypted f pay => Sys2Proof.Machine.execKEncrypted f pay s
  | .kCtx f pay ctx => Sys2Proof.Machine.execKCtx f pay ctx s
  | .kOpmode f pay => Sys2Proof.Machine.execKOpmode f pay s
  | .kStatus f pay => Sys2Proof.Machine.execKStatus f pay s
  | .kParam f pay => Sys2Proof.Machine.execKParam f pay s
  | .kVersion f pay => Sys2Proof.Machine.execKVersion f pay s
  | .kOfflen f pay => Sys2Proof.Machine.execKOfflen f pay s
  | .kLong f pay => Sys2Proof.Machine.execKLong f pay s
  | .kValtype f pay => Sys2Proof.Machine.execKValtype f pay s
  | .kParamval f pay => Sys2Proof.Machine.execKParamval f pay s
  | .kTime f pay => Sys2Proof.Machine.execKTime f pay s
  | .kStatusvec f pay => Sys2Proof.Machine.execKStatusvec f pay s
  | .kDevdata f pay => Sys2Proof.Machine.execKDevdata f pay s
  | .kUnknown f pay => Sys2Proof.Machine.execKUnknown f pay s
  | .subOptLegacy devid sub => Sys2Proof.Machine.execSubOptLegacy devid sub s
  | .subOptCompact devid sub => Sys2Proof.Machine.execSubOptCompact devid sub s
  | .subInverter devid sub => Sys2Proof.Machine.execSubInverter devid sub s
  | .subEvent devid sub => Sys2Proof.Machine.execSubEvent devid sub s
  | .subOther tag devid sub => Sys2Proof.Machine.execSubOther tag devid sub s
  | .crcInit => Sys2Proof.Machine.execCrcInit s
  | .crcStep b => Sys2Proof.Machine.execCrcStep b s
  | .crcRead => Sys2Proof.Machine.execCrcRead s
  | .crcSum bs => Sys2Proof.Machine.execCrcSum bs s
  | .coverage seq src dst fn payload => Sys2Proof.Machine.execCoverage seq src dst fn payload s
  | .frameFormat seq src dst fn payload => Sys2Proof.Machine.execFrameFormat seq src dst fn payload s
  | .frameSend seq src dst fn payload => Sys2Proof.Machine.execFrameSend seq src dst fn payload s
  | .frameParse body => Sys2Proof.Machine.execFrameParse body s
  | .frameFilter unit => Sys2Proof.Machine.execFrameFilter unit s
  | .rxStepFramed ctx => Sys2Proof.Machine.execRxStepFramed ctx s
  | .rxStepPassive ctx => Sys2Proof.Machine.execRxStepPassive ctx s
  | .endOfStream => Sys2Proof.Machine.execEndOfStream s
  | .deliver unit ctx => Sys2Proof.Machine.execDeliver unit ctx s
  | .dispatch fn pay ctx => Sys2Proof.Machine.execDispatch fn pay ctx s
  | .resolveCtx ctx => Sys2Proof.Machine.execResolveCtx ctx s
  | .decNone pay => Sys2Proof.Machine.execDecNone pay s
  | .decOpmode pay => Sys2Proof.Machine.execDecOpmode pay s
  | .decStatus pay => Sys2Proof.Machine.execDecStatus pay s
  | .decParam pay => Sys2Proof.Machine.execDecParam pay s
  | .decVersion pay => Sys2Proof.Machine.execDecVersion pay s
  | .decOfflen pay => Sys2Proof.Machine.execDecOfflen pay s
  | .decLong pay => Sys2Proof.Machine.execDecLong pay s
  | .decValtype pay => Sys2Proof.Machine.execDecValtype pay s
  | .decParamval pay => Sys2Proof.Machine.execDecParamval pay s
  | .decTime pay => Sys2Proof.Machine.execDecTime pay s
  | .decStatusvec pay => Sys2Proof.Machine.execDecStatusvec pay s
  | .decDevdata pay => Sys2Proof.Machine.execDecDevdata pay s
  | .devNormid devid => Sys2Proof.Machine.execDevNormid devid s
  | .devOptLegacy id sub => Sys2Proof.Machine.execDevOptLegacy id sub s
  | .devInverter id sub => Sys2Proof.Machine.execDevInverter id sub s
  | .devOptCompact id sub => Sys2Proof.Machine.execDevOptCompact id sub s
  | .devEvent id sub => Sys2Proof.Machine.execDevEvent id sub s
  | .devSkip tag id sublen => Sys2Proof.Machine.execDevSkip tag id sublen s
  | .sysReset => Sys2Proof.Machine.execSysReset s
  | .sysReopen stream => Sys2Proof.Machine.execSysReopen stream s

end Sys2Proof.Machine
end

