-- ==== Sys2Proof/Machine/Step.lean ====
section
/-! DEFINITION. One step: the next request, or the receiver's own step when none is pending (fetch, Machine/Ops.lean), run by exec;
and the placing of an opcode-table word where the step fetches. -/

namespace Sys2Proof.Machine

/-- One step of the machine. -/
def step (s : State) : Host.Outcome State Fault Refusal :=
  match fetch s with
  | .ok (i, s') => exec i s'
  | .error e => .refused (.undecodable e)

/-- The state with an opcode-table word as the next request. A width the table gives no row stands for no instruction, and the
state is unchanged. -/
def State.withFetchWord (s : State) (nbits w : Nat) : State :=
  match tableCmd nbits w with
  | some c => s.request c
  | none => s

end Sys2Proof.Machine
end

