-- ==== Sys2Proof/Machine/CrcForms.lean ====
section
/-! DEFINITION. The other forms of the checksum the spec gives beside the table (R122, R127): the construction of a table entry, the
bit-serial update, and the most-significant-bit-first form. The machine runs the table form of Machine/Crc.lean; statements
compare the forms. -/

namespace Sys2Proof.Machine

/-- `0x8005` with its 16 bits reversed (R122). -/
def crcReflectedPoly : U16 := 0xA001

/-- One shift of the right-shifting register with a feedback bit (R122, R127). -/
def crcShift (feedback : Bool) (c : U16) : U16 := if feedback then (c >>> 1) ^^^ crcReflectedPoly else c >>> 1

/-- The construction of table entry `i` (R122): eight shifts from `zext_16(i)`, fed back by the bit shifted out. -/
def crcConstruct (i : BitVec 8) : U16 := (List.range 8).foldl (fun c _ => crcShift (c.getLsbD 0) c) (i.setWidth 16)

/-- The bit-serial update (R127): least significant bit of the byte first. -/
def crcBitSerial (a : U16) (b : Byte) : U16 :=
  (List.range 8).foldl (fun c k => crcShift (c.getLsbD 0 ^^ b.getLsbD k) c) a

/-- One byte, its bits reversed, into the left-shifting register with polynomial `0x8005` (R127). -/
def crcMsbStep (c : U16) (b : Byte) : U16 :=
  (List.range 8).foldl
    (fun c k => if c.getMsbD 0 ^^ b.reverse.getMsbD k then (c <<< 1) ^^^ 0x8005 else c <<< 1) c

/-- The most-significant-bit-first form with explicit reflections (R127). -/
def crcMsbFirst (bs : Bytes) : U16 := (bs.foldl crcMsbStep crcInitValue).reverse

end Sys2Proof.Machine
end

