-- ==== Sys2Proof/Safety.lean ====
section
/-! DEFINITION. What claims rest on: a run of the machine, the invariant of the block, and what a run without refusals is (R257). -/

namespace Sys2Proof.Machine

/-- `k` steps of the machine, as the host runs it. -/
def run (k : Nat) (s : State) : Out := Sys2Proof.core.run k s

/-- No four neighbouring bytes are the magic: what the passive receiver has collected never holds one (R150). -/
def noMagic : Bytes → Bool
  | [] => true
  | b :: rest => !((b :: rest).take 4 == magic) && noMagic rest

/-- The kind of values recorded with an outcome kind is the one R250 lists for it. -/
def Code.fits : Code → Info → Bool
  | .lengthMismatch, .lengths _ _ => true
  | .checksumMismatch, .checksums _ _ => true
  | .unknownFunction, .function _ => true
  | .badMagic, .found _ => true
  | .sizeMismatch, .sizes _ _ => true
  | .payloadSize, .payloadSize _ _ _ => true
  | .subRecordTruncated, .truncated _ _ _ => true
  | k, .none => !k.isError
  | _, _ => false

/-- The receiver's collection state agrees with its phase (R27, R148, R150, R152): in `HEAD` and `TAIL` the bytes collected and
the bytes wanted add up to the header, and to the frame the length field asks for; in `SCAN` no magic has been collected; in
`DONE` nothing is held; `DESYNC` follows a refusal. -/
def ReceiverInv (s : State) : Prop :=
  match s.rxPhase with
  | .head => s.cfg.mode = .framed ∧ 0 < s.rxNeed ∧ s.rxBuf.length + s.rxNeed = 20
  | .tail =>
    s.cfg.mode = .framed ∧ 0 < s.rxNeed ∧ 20 ≤ s.rxBuf.length ∧
      s.rxBuf.length + s.rxNeed = 22 + (le16 s.rxBuf 4).toNat
  | .scan => s.cfg.mode = .passive ∧ noMagic s.rxBuf = true
  | .done => s.rxBuf = []
  | .desync => s.cfg.mode = .framed ∧ s.stRefused = true

/-- The Message registers and `PAY` hold the null message (R143, R251). -/
def NullMessage (s : State) : Prop :=
  s.mSeq = 0 ∧ s.mFrom = 0 ∧ s.mTo = 0 ∧ s.mFn = 0 ∧ s.mLen = 0 ∧ s.mLenInv = 0 ∧ s.mCks = 0 ∧ s.pay = []

/-- The Message registers and `PAY` hold one message whole (R23, R24, R143): the length pair agrees, the payload has the length the
field says, and the checksum is that of the other fields. -/
def WholeMessage (s : State) : Prop :=
  s.mLenInv = not16 s.mLen ∧ s.pay.length = s.mLen.toNat ∧
    s.mCks = crcOf (coverageOf s.mSeq s.mFrom s.mTo s.mFn s.pay)

/-- Two states hold the same in the Message registers and `PAY`. -/
def SameMessage (s t : State) : Prop :=
  t.mSeq = s.mSeq ∧ t.mFrom = s.mFrom ∧ t.mTo = s.mTo ∧ t.mFn = s.mFn ∧ t.mLen = s.mLen ∧ t.mLenInv = s.mLenInv ∧
    t.mCks = s.mCks ∧ t.pay = s.pay

/-- The invariant of the block. -/
structure Inv (s : State) : Prop where
  /-- The configuration is well formed (R33). -/
  config : s.cfg.wf = true
  receiver : ReceiverInv s
  /-- `PAY` holds at most 65535 bytes, whatever it holds (R24). -/
  payload : s.pay.length ≤ 65535
  /-- Only the passive receiver warms up (R37). -/
  warm : s.rxWarm = true → s.cfg.mode = .passive
  /-- The two kinds that never appear in `ST.code` (R250). -/
  code : s.stCode ≠ .unknownDeviceType ∧ s.stCode ≠ .transportFault
  /-- The recorded values are those of the outcome kind (R250). -/
  info : s.stCode.fits s.stInfo = true
  /-- The checksums recorded with a mismatch are in `ST.wire` and `ST.calc` (R253). -/
  checksums : s.stCode = .checksumMismatch → s.stInfo = .checksums s.stWire s.stCalc
  /-- `ST.sub` counts the recorded tags (R250, R255). -/
  tags : s.stTags.length = s.stSub
  /-- `ST.halt` is set only under `CFG.HALT_ON_ERROR` (R39). -/
  halt : s.stHalt = true → s.cfg.haltOnError = true
  /-- `TX.busy` is never observed true between steps (R40). -/
  idle : s.txBusy = false

/-- No refusal of the spec's own has occurred since the last reset (R257). -/
def NoRefusal (s : State) : Prop := s.stRefused = false

/-- The receiver may step (R38, R39). -/
def CanReceive (s : State) : Prop := receiverBlocked s = none

end Sys2Proof.Machine
end

