-- ==== Sys2Proof/Certificates/Slice0/Obligations.lean ====
section
/-! DEFINITION. The statements for the provers. Each is about the machine; a statement about what an operation does gives the whole
next state as a record update of the state before, so that every field it does not name is unchanged. -/

open Sys2Proof Sys2Proof.Machine

/-! ### Expected states and values the statements share -/

/-- The state an error of the document leaves (R258): outcome kind and recorded values written, the halt set under
`CFG.HALT_ON_ERROR`, nothing handed over. -/
def Sys2Proof.Claim.errorState (k : Code) (info : Info) (s : State) : State :=
  { s with stCode := k, stInfo := info, stHalt := s.stHalt || s.cfg.haltOnError, ret := .none }

/-- The state a refusal of the spec's own leaves (R257, R258): as an error, and the sticky mark. -/
def Sys2Proof.Claim.refusalState (k : Code) (info : Info) (s : State) : State :=
  { s with stCode := k, stInfo := info, stHalt := s.stHalt || s.cfg.haltOnError, stRefused := true, ret := .none }

/-- The state `u` but for the Message registers and `PAY`, which hold no message after FRAME.PARSE has raised (R143): nothing is said
of their values, nor of the model's own count of free values (log entry 10). -/
def Sys2Proof.Claim.noMessageHeld (u t : State) : Prop :=
  t =
    { u with
      mSeq := t.mSeq, mFrom := t.mFrom, mTo := t.mTo, mFn := t.mFn, mLen := t.mLen, mLenInv := t.mLenInv, mCks := t.mCks
      pay := t.pay, freeIdx := t.freeIdx }

/-- A refused payload size (R195). -/
def Sys2Proof.Claim.sizeRefused (c : SizeClass) (held want : Nat) (s : State) : State :=
  Sys2Proof.Claim.refusalState .payloadSize (.payloadSize c held want) s

/-- A decoder called by name returned a result: nothing else changes. -/
def Sys2Proof.Claim.returned (r : Result) (s : State) : State := { s with ret := .result r }

/-- DISPATCH returned `Decoded(fn, r)` with `ST.code = OK` (R181). -/
def Sys2Proof.Claim.decodedOk (fn : U16) (r : Result) (s : State) : State :=
  { s with stCode := .ok, stInfo := .none, ret := .decoded fn r }

/-- DISPATCH returned `Decoded(fn, r)` with `ST.code = MapMiss` (R181, R185). -/
def Sys2Proof.Claim.decodedMiss (fn : U16) (r : Result) (s : State) : State :=
  { s with stCode := .mapMiss, stInfo := .none, ret := .decoded fn r }

/-- The decoder DISPATCH calls for a class (R181): none for `K_UNKNOWN`. -/
def Sys2Proof.Claim.decoderCall (k : PlainClass) (pay : Bytes) : Option Instr :=
  match k with
  | .unknown => none
  | .zeroarg => some (.decNone pay)
  | .encrypted => some (.decNone pay)
  | .opmode => some (.decOpmode pay)
  | .status => some (.decStatus pay)
  | .param => some (.decParam pay)
  | .version => some (.decVersion pay)
  | .offlen => some (.decOfflen pay)
  | .long => some (.decLong pay)
  | .valtype => some (.decValtype pay)
  | .paramval => some (.decParamval pay)
  | .time => some (.decTime pay)
  | .statusvec => some (.decStatusvec pay)
  | .devdata => some (.decDevdata pay)

/-- How DISPATCH ends after its decoder (R181): `ST.code = OK` unless the decoder set `MapMiss`, and `Decoded(fn, r)`; a raise of the
decoder stands. -/
def Sys2Proof.Claim.afterDecoder (fn : U16) (t : State) : State :=
  match t.ret with
  | .result r => if r.missed then { t with ret := .decoded fn r } else Sys2Proof.Claim.decodedOk fn r t
  | _ => t

/-- The state after FRAME.PARSE has accepted a message (R143). -/
def Sys2Proof.Claim.accepted (len lenInv seq : U16) (src dst : U32) (fn : U16) (payload : Bytes) (cks : U16) (s : State) :
    State :=
  { s with
    crcAcc := cks, mSeq := seq, mFrom := src, mTo := dst, mFn := fn, mLen := len, mLenInv := lenInv, mCks := cks
    pay := payload, stCode := .ok, stInfo := .none, ret := .message seq src dst fn payload }

/-- A sub-record as a value: tag, raw device id, sub-payload. -/
abbrev Sys2Proof.Claim.Sub := U16 × U32 × Bytes

/-- The bytes of a run of sub-records (R95, R97). -/
def Sys2Proof.Claim.subBytes (xs : List Sys2Proof.Claim.Sub) : Bytes := xs.flatMap fun x => encodeSub x.1 x.2.1 x.2.2

/-- The record of one sub-record when no layout parameter is given (R221, R222): none for a tag that is not recognised. -/
def Sys2Proof.Claim.recordOf (bits : CompactBits) (x : Sys2Proof.Claim.Sub) : Option DevRec :=
  if x.1 = 0x0000 then some (.optLegacy (x.2.1 &&& 0xFF7FFFFF) (.uncut x.2.2))
  else if x.1 = 0x0080 then some (compactRecord bits (x.2.1 &&& 0xFF7FFFFF) x.2.2)
  else if x.1 = 0x0010 then some (.inverter (x.2.1 &&& 0xFF7FFFFF) (.uncut x.2.2))
  else if x.1 = 0x0300 then some (.event (x.2.1 &&& 0xFF7FFFFF) (.uncut x.2.2))
  else none

/-- How many of the sub-records have a tag that is not recognised. -/
def Sys2Proof.Claim.skippedOf (bits : CompactBits) (xs : List Sys2Proof.Claim.Sub) : Nat :=
  xs.countP fun x => (Sys2Proof.Claim.recordOf bits x).isNone

/-- The tags of those sub-records, in payload order. -/
def Sys2Proof.Claim.skippedTags (bits : CompactBits) (xs : List Sys2Proof.Claim.Sub) : List U16 :=
  (xs.filter fun x => (Sys2Proof.Claim.recordOf bits x).isNone).map (·.1)

/-- The state the walker leaves behind a run of well-formed sub-records (R221, R230): the unrecognised ones counted in `ST.sub`, their
tags recorded (R250; the field is log entry 30). -/
def Sys2Proof.Claim.walked (xs : List Sys2Proof.Claim.Sub) (s : State) : State :=
  { s with
    stSub := Sys2Proof.Claim.skippedOf s.cfg.compactBits xs, stTags := Sys2Proof.Claim.skippedTags s.cfg.compactBits xs }

/-- The ordered fields of a packed layout, read from the front of the bytes (R53, R55, R99): little-endian, an embedded id with bit 23
cleared (R225). -/
def Sys2Proof.Claim.fieldsAt : Layout → Bytes → List FieldVal
  | .u8 :: l, b0 :: rest => .b1 b0 :: Sys2Proof.Claim.fieldsAt l rest
  | .u16 :: l, b0 :: b1 :: rest => .b2 (b1 ++ b0) :: Sys2Proof.Claim.fieldsAt l rest
  | .u32 :: l, b0 :: b1 :: b2 :: b3 :: rest => .b4 (b3 ++ (b2 ++ (b1 ++ b0))) :: Sys2Proof.Claim.fieldsAt l rest
  | .devId :: l, b0 :: b1 :: b2 :: b3 :: rest =>
    .b4 ((b3 ++ (b2 ++ (b1 ++ b0))) &&& 0xFF7FFFFF) :: Sys2Proof.Claim.fieldsAt l rest
  | _, _ => []

/-- Every sub-payload fits its length field, and a compact record has its 13 bytes (R97, R98). -/
def Sys2Proof.Claim.subsFit (xs : List Sys2Proof.Claim.Sub) : Prop :=
  ∀ x ∈ xs, x.2.2.length ≤ 65535 ∧ (x.1 = 0x0080 → 13 ≤ x.2.2.length)

/-- No layout parameter is given (R99, R220). -/
def Sys2Proof.Claim.noLayouts (s : State) : Prop :=
  s.cfg.layoutOptLegacy = none ∧ s.cfg.layoutInverter = none ∧ s.cfg.layoutEvent = none

/-- One bit of one byte of a sequence flipped. -/
def Sys2Proof.Claim.flipBit (b : Bytes) (i k : Nat) : Bytes := b.set i (byteAt b i ^^^ (1#8 <<< k))

open Sys2Proof.Claim

/-! ### Bytes -/

/-- R9: `LE16`, `LE32` read a little-endian integer at any offset, and `encLE16`, `encLE32`, `encBE16`, `encBE32` give its bytes in
the two orders. -/
def Obligations.ByteOrderOfIntegers : Prop :=
  (∀ (pre rest : Bytes) (b0 b1 : Byte), le16 (pre ++ b0 :: b1 :: rest) pre.length = b1 ++ b0) ∧
  (∀ (pre rest : Bytes) (b0 b1 b2 b3 : Byte),
    le32 (pre ++ b0 :: b1 :: b2 :: b3 :: rest) pre.length = b3 ++ (b2 ++ (b1 ++ b0))) ∧
  (∀ b0 b1 : Byte, encLE16 (b1 ++ b0) = [b0, b1] ∧ encBE16 (b1 ++ b0) = [b1, b0]) ∧
  (∀ b0 b1 b2 b3 : Byte,
    encLE32 (b3 ++ (b2 ++ (b1 ++ b0))) = [b0, b1, b2, b3] ∧ encBE32 (b3 ++ (b2 ++ (b1 ++ b0))) = [b3, b2, b1, b0])

/-! ### The CRC unit -/

/-- R123, R124, R125: CRC.INIT writes the initial value; CRC.STEP indexes the table with the low byte of the accumulator xor the byte
and shifts the accumulator right by eight; CRC.READ returns the accumulator; nothing else changes. -/
def Obligations.CrcRegisterOperations : Prop :=
  ∀ s : State,
    exec .crcInit s = .next { s with crcAcc := 0x5A5A, ret := .none } ∧
    (∀ hi lo b : Byte, s.crcAcc = hi ++ lo →
      exec (.crcStep b) s = .next { s with crcAcc := crcT (lo ^^^ b) ^^^ (0#8 ++ hi), ret := .none }) ∧
    exec .crcRead s = .next { s with ret := .crc s.crcAcc }

/-- R126: CRC.SUM is CRC.INIT, one CRC.STEP per byte from left to right, and CRC.READ; the empty sequence gives the initial value. -/
def Obligations.CrcSumIsTheFoldOfSteps : Prop :=
  (∀ s : State, exec (.crcSum []) s = .next { s with crcAcc := 0x5A5A, ret := .crc 0x5A5A }) ∧
  (∀ (bs : Bytes) (b : Byte) (s t u : State),
    exec (.crcSum bs) s = .next t → exec (.crcStep b) t = .next u →
      exec (.crcSum (bs ++ [b])) s = .next { u with ret := .crc u.crcAcc }) ∧
  (∀ (bs : Bytes) (s : State), ∃ v, exec (.crcSum bs) s = .next { s with crcAcc := v, ret := .crc v })

/-- R122: every entry of the table is the value its construction from the polynomial gives. -/
def Obligations.CrcTableIsBuiltFromThePolynomial : Prop := ∀ i : BitVec 8, crcT i = crcConstruct i

/-- The spec's inference in 40_crc.md (R127, marked derived): the table form, the bit-serial form and the form with explicit
reflections give the same checksum. -/
def Obligations.CrcFormsAgree : Prop :=
  (∀ (a : U16) (b : Byte), crcUpdate a b = crcBitSerial a b) ∧ (∀ bs : Bytes, crcOf bs = crcMsbFirst bs)

/-- The spec's inference in 40_crc.md (R128 item (c), marked derived): the checksum is affine over exclusive-or. -/
def Obligations.CrcIsAffine : Prop :=
  ∀ a b : Bytes, a.length = b.length →
    crcOf (List.zipWith (· ^^^ ·) a b) = crcOf a ^^^ crcOf b ^^^ crcOf (List.replicate a.length 0)

/-- The spec's inference in 40_crc.md (R128 item (e), marked derived): a sequence followed by its own checksum has checksum 0. -/
def Obligations.CrcResidueIsZero : Prop :=
  ∀ (bs : Bytes) (s : State),
    exec (.crcSum (bs ++ encLE16 (crcOf bs))) s = .next { s with crcAcc := 0, ret := .crc 0 }

/-- The spec's inference in 40_crc.md (R128 item (d), marked derived), on whole frames: one bit flipped anywhere in the covered bytes
of a formatted frame (sequence number, addresses, function code, payload) is rejected with `ChecksumMismatch`, and no message is
taken. -/
def Obligations.SingleBitFlipIsRejected : Prop :=
  ∀ (seq : U16) (src dst : U32) (fn : U16) (payload : Bytes) (i k : Nat) (s : State),
    payload.length ≤ 65535 → 4 ≤ i → i < 16 + payload.length → k < 8 →
      ∃ (wire computed : U16) (t : State), wire ≠ computed ∧
        exec (.frameParse (flipBit ((formatOf seq src dst fn payload).drop 4) i k)) s = .next t ∧
        noMessageHeld
          (errorState .checksumMismatch (.checksums wire computed)
            { s with crcAcc := computed, stWire := wire, stCalc := computed }) t

/-! ### The frame unit -/

/-- R140: the scalar fields big-endian, then the payload; no state is written. -/
def Obligations.CoverageIsBigEndian : Prop :=
  ∀ (q0 q1 f0 f1 f2 f3 d0 d1 d2 d3 n0 n1 : Byte) (payload : Bytes) (s : State),
    exec (.coverage (q1 ++ q0) (f3 ++ (f2 ++ (f1 ++ f0))) (d3 ++ (d2 ++ (d1 ++ d0))) (n1 ++ n0) payload) s =
      .next { s with ret := .bytes ([q1, q0, f3, f2, f1, f0, d3, d2, d1, d0, n1, n0] ++ payload) }

/-- R141: the wire frame of a payload of `L` bytes, its checksum over the big-endian coverage, and nothing else changed but the
scratch accumulator; the frame has `22 + L` bytes. -/
def Obligations.FormatBuildsTheFrame : Prop :=
  ∀ (q0 q1 f0 f1 f2 f3 d0 d1 d2 d3 n0 n1 l0 l1 c0 c1 : Byte) (payload : Bytes) (s : State),
    payload.length = (l1 ++ l0 : U16).toNat →
    crcOf ([q1, q0, f3, f2, f1, f0, d3, d2, d1, d0, n1, n0] ++ payload) = c1 ++ c0 →
      exec (.frameFormat (q1 ++ q0) (f3 ++ (f2 ++ (f1 ++ f0))) (d3 ++ (d2 ++ (d1 ++ d0))) (n1 ++ n0) payload) s =
        .next
          { s with
            crcAcc := c1 ++ c0
            ret := .bytes
              ([0x12, 0x34, 0x56, 0x79, l0, l1, ~~~l0, ~~~l1, q0, q1, f0, f1, f2, f3, d0, d1, d2, d3, n0, n1] ++ payload
                ++ [c0, c1]) }

/-- 41_frame.md section 1 (FRAME.SEND, R142, marked derived): while `ST.halt` is clear a frame is appended whole to `TXS` and
`TX.busy` is clear afterwards; while it is set FRAME.SEND is not enabled; a payload of more than 65535 bytes is no operand (log
entry 12). -/
def Obligations.SendAppendsOneWholeFrame : Prop :=
  ∀ (seq : U16) (src dst : U32) (fn : U16) (payload : Bytes) (s : State),
    (s.stHalt = false → payload.length ≤ 65535 →
      exec (.frameSend seq src dst fn payload) s =
        .next
          { s with
            txs := s.txs ++ formatOf seq src dst fn payload
            crcAcc := crcOf (coverageOf seq src dst fn payload)
            txBusy := false
            ret := .none }) ∧
    (s.stHalt = true → exec (.frameSend seq src dst fn payload) s = .fault .halted) ∧
    (s.stHalt = false → 65535 < payload.length →
      exec (.frameSend seq src dst fn payload) s = .refused .payloadTooLong) ∧
    (65535 < payload.length → exec (.frameFormat seq src dst fn payload) s = .refused .payloadTooLong)

/-- R143: the five ways FRAME.PARSE ends, in the order of its tests, with all they write; of the Message registers and `PAY` after an
error nothing is said. -/
def Obligations.ParseFollowsItsContract : Prop :=
  ∀ (body : Bytes) (s : State),
    (body.length < 18 →
      exec (.frameParse body) s =
        .next
          { s with
            mSeq := 0, mFrom := 0, mTo := 0, mFn := 0, mLen := 0, mLenInv := 0, mCks := 0, pay := []
            stCode := .shortMessage, stInfo := .none, ret := .empty }) ∧
    (18 ≤ body.length → le16 body 0 ≠ ~~~(le16 body 2) →
      ∃ t, exec (.frameParse body) s = .next t ∧
        noMessageHeld (errorState .lengthMismatch (.lengths (le16 body 0) (le16 body 2)) s) t) ∧
    (18 ≤ body.length → le16 body 0 = ~~~(le16 body 2) → body.length ≠ 18 + (le16 body 0).toNat →
      ∃ t, exec (.frameParse body) s = .next t ∧
        noMessageHeld (refusalState .sizeMismatch (.sizes body.length (18 + (le16 body 0).toNat)) s) t) ∧
    (le16 body 0 = ~~~(le16 body 2) → body.length = 18 + (le16 body 0).toNat →
      let payload := (body.drop 16).take (le16 body 0).toNat
      let wire := le16 body (16 + (le16 body 0).toNat)
      let computed := crcOf (encBE16 (le16 body 4) ++ encBE32 (le32 body 6) ++ encBE32 (le32 body 10)
        ++ encBE16 (le16 body 14) ++ payload)
      (wire ≠ computed →
        ∃ t, exec (.frameParse body) s = .next t ∧
          noMessageHeld
            (errorState .checksumMismatch (.checksums wire computed)
              { s with crcAcc := computed, stWire := wire, stCalc := computed }) t) ∧
      (wire = computed →
        exec (.frameParse body) s =
          .next (accepted (le16 body 0) (le16 body 2) (le16 body 4) (le32 body 6) (le32 body 10) (le16 body 14) payload wire
            s)))

/-- 41_frame.md section 2 (round-trip law R145, marked derived): FRAME.PARSE of a formatted frame without its magic gives the
operands back, for every operand the field widths admit. -/
def Obligations.ParseInvertsFormat : Prop :=
  ∀ (seq : U16) (src dst : U32) (fn : U16) (payload : Bytes) (s : State), payload.length ≤ 65535 →
    exec (.frameParse ((formatOf seq src dst fn payload).drop 4)) s =
      .next (accepted (BitVec.ofNat 16 payload.length) (~~~(BitVec.ofNat 16 payload.length)) seq src dst fn payload
        (crcOf (coverageOf seq src dst fn payload)) s)

/-- 41_frame.md section 2 (the converse in R145, marked derived): a body FRAME.PARSE accepts is, after the magic, the frame FORMAT
makes of the message. -/
def Obligations.AcceptedBodyIsAFormattedFrame : Prop :=
  ∀ (body : Bytes) (s t : State) (seq : U16) (src dst : U32) (fn : U16) (payload : Bytes),
    exec (.frameParse body) s = .next t → t.ret = .message seq src dst fn payload →
      payload.length ≤ 65535 ∧ magic ++ body = formatOf seq src dst fn payload

/-- R147: a unit is dropped exactly when it is not empty and every byte is zero. -/
def Obligations.FilterDropsAllZeroUnits : Prop :=
  ∀ (unit : Bytes) (s : State),
    (unit ≠ [] → (∀ b ∈ unit, b = 0) →
      exec (.frameFilter unit) s = .next { s with stCode := .allZeroDiscard, stInfo := .none, ret := .drop }) ∧
    ((unit = [] ∨ ∃ b ∈ unit, b ≠ 0) → exec (.frameFilter unit) s = .next { s with ret := .pass })

/-- The frame row means FRAME.PARSE of the bytes after its magic (log entry 4): a disagreeing length pair is refused before the
checksum is looked at, a wrong checksum is reported, and a good frame is taken into the Message registers. -/
def Obligations.FrameRowIsParsed : Prop :=
  ∀ (len lenInv seq : U16) (src dst : U32) (fn : U16) (payload : Bytes) (cks : U16) (s : State),
    payload.length = len.toNat →
      let computed := crcOf (coverageOf seq src dst fn payload)
      (lenInv ≠ ~~~len →
        ∃ t, exec (.frame len lenInv seq src dst fn payload cks) s = .next t ∧
          noMessageHeld (errorState .lengthMismatch (.lengths len lenInv) s) t) ∧
      (lenInv = ~~~len → cks ≠ computed →
        ∃ t, exec (.frame len lenInv seq src dst fn payload cks) s = .next t ∧
          noMessageHeld
            (errorState .checksumMismatch (.checksums cks computed)
              { s with crcAcc := computed, stWire := cks, stCalc := computed }) t) ∧
      (lenInv = ~~~len → cks = computed →
        exec (.frame len lenInv seq src dst fn payload cks) s =
          .next (accepted len lenInv seq src dst fn payload cks s))

/-! ### The receivers -/

/-- 41_frame.md section 3 (R148): one step of the framed receiver on each kind of event. The last two clauses, an exhausted list of
events, are the model's reading of `END` (R105, log entry 11): it holds on a live transport and ends a finite one, as endless `Empty`
events do. -/
def Obligations.FramedReceiverStep : Prop :=
  ∀ (ctx : Option U16) (rest : List Event) (s : State),
    s.stHalt = false → s.cfg.mode = .framed → (s.rxPhase = .head ∨ s.rxPhase = .tail) →
    (∀ b : Byte, s.rxs = .byte b :: rest →
      (2 ≤ s.rxNeed →
        exec (.rxStepFramed ctx) s =
          .next { s with rxs := rest, rxBuf := s.rxBuf ++ [b], rxNeed := s.rxNeed - 1, ret := .none }) ∧
      (s.rxNeed = 1 → s.rxPhase = .head →
        exec (.rxStepFramed ctx) s =
          .next
            { s with
              rxs := rest, rxBuf := s.rxBuf ++ [b], rxPhase := .tail
              rxNeed := (le16 (s.rxBuf ++ [b]) 4).toNat + 2, ret := .none }) ∧
      (s.rxNeed = 1 → s.rxPhase = .tail →
        exec (.rxStepFramed ctx) s =
          exec (.deliver (s.rxBuf ++ [b]) ctx) { s with rxs := rest, rxBuf := [], rxPhase := .head, rxNeed := 20 })) ∧
    (s.rxs = .empty :: rest → s.cfg.live = true →
      exec (.rxStepFramed ctx) s = .next { s with rxs := rest, ret := .none }) ∧
    ((s.rxs = .fault :: rest ∨ (s.rxs = .empty :: rest ∧ s.cfg.live = false)) →
      exec (.rxStepFramed ctx) s = exec .endOfStream { s with rxs := rest }) ∧
    (s.rxs = [] → s.cfg.live = true → exec (.rxStepFramed ctx) s = .next { s with ret := .none }) ∧
    (s.rxs = [] → s.cfg.live = false → exec (.rxStepFramed ctx) s = exec .endOfStream s)

/-- 41_frame.md section 3 (R150, R151): one step of the passive receiver on each kind of event. The last two clauses, an exhausted
list of events, are the model's reading of `END` (R105, log entry 11). -/
def Obligations.PassiveReceiverStep : Prop :=
  ∀ (ctx : Option U16) (rest : List Event) (s : State),
    s.stHalt = false → s.cfg.mode = .passive → s.rxPhase = .scan →
    (∀ b : Byte, s.rxs = .byte b :: rest →
      ((¬ ∃ unit, s.rxBuf ++ [b] = unit ++ [0x12, 0x34, 0x56, 0x79]) →
        exec (.rxStepPassive ctx) s = .next { s with rxs := rest, rxBuf := s.rxBuf ++ [b], ret := .none }) ∧
      (∀ unit, s.rxBuf ++ [b] = unit ++ [0x12, 0x34, 0x56, 0x79] → s.rxWarm = true →
        exec (.rxStepPassive ctx) s =
          .next
            { s with
              rxs := rest, rxBuf := [], rxWarm := false, stCode := .warmupDiscard, stInfo := .none, ret := .none }) ∧
      (∀ unit, s.rxBuf ++ [b] = unit ++ [0x12, 0x34, 0x56, 0x79] → s.rxWarm = false →
        exec (.rxStepPassive ctx) s = exec (.deliver unit ctx) { s with rxs := rest, rxBuf := [] })) ∧
    (s.rxs = .empty :: rest → s.cfg.live = true →
      exec (.rxStepPassive ctx) s = .next { s with rxs := rest, ret := .none }) ∧
    ((s.rxs = .fault :: rest ∨ (s.rxs = .empty :: rest ∧ s.cfg.live = false)) →
      exec (.rxStepPassive ctx) s = exec .endOfStream { s with rxs := rest }) ∧
    (s.rxs = [] → s.cfg.live = true → exec (.rxStepPassive ctx) s = .next { s with ret := .none }) ∧
    (s.rxs = [] → s.cfg.live = false → exec (.rxStepPassive ctx) s = exec .endOfStream s)

/-- R152: end-of-stream throws the collected bytes away, counts them, and leaves phase `DONE`, in which no receiver step is enabled. -/
def Obligations.EndOfStreamDiscards : Prop :=
  ∀ s : State, CanReceive s →
    let ended : State :=
      { s with
        stPartial := s.rxBuf.length, rxBuf := [], rxPhase := .done, stCode := .noMessage, stInfo := .none
        ret := .noMessage }
    exec .endOfStream s = .next ended ∧
      ∀ ctx, (∃ f, exec (.rxStepFramed ctx) ended = .fault f) ∧ ∃ f, exec (.rxStepPassive ctx) ended = .fault f

/-- R153 and R149: the pipeline of a completed unit, stage by stage; a formatted frame of a function without arguments runs to its
end. -/
def Obligations.DeliverPipeline : Prop :=
  ∀ (unit : Bytes) (ctx : Option U16) (s : State), CanReceive s →
    (unit ≠ [] → (∀ b ∈ unit, b = 0) →
      exec (.deliver unit ctx) s = .next { s with stCode := .allZeroDiscard, stInfo := .none, ret := .none }) ∧
    ((∃ b ∈ unit, b ≠ 0) → s.cfg.mode = .framed → unit.take 4 ≠ [0x12, 0x34, 0x56, 0x79] →
      exec (.deliver unit ctx) s =
        .next (refusalState .badMagic (.found (unit.take 4)) { s with rxPhase := .desync })) ∧
    (∀ (body : Bytes) (t : State),
      ((s.cfg.mode = .framed ∧ unit = [0x12, 0x34, 0x56, 0x79] ++ body) ∨
        (s.cfg.mode = .passive ∧ unit = body ∧ (body = [] ∨ ∃ b ∈ body, b ≠ 0))) →
      exec (.frameParse body) s = .next t →
        (t.ret = .empty → exec (.deliver unit ctx) s = .next t) ∧
        (t.ret = .none → exec (.deliver unit ctx) s = .next t) ∧
        (∀ seq src dst fn payload, t.ret = .message seq src dst fn payload →
          exec (.deliver unit ctx) s = exec (.dispatch fn payload ctx) t)) ∧
    (∀ (seq : U16) (src dst : U32) (fn : U16) (payload : Bytes),
      s.cfg.mode = .framed → payload.length ≤ 65535 → s.cfg.resolveClass fn ctx = .zeroarg →
      unit = formatOf seq src dst fn payload →
        exec (.deliver unit ctx) s =
          .next (decodedOk fn .empty
            (accepted (BitVec.ofNat 16 payload.length) (~~~(BitVec.ofNat 16 payload.length)) seq src dst fn payload
              (crcOf (coverageOf seq src dst fn payload)) s)))

/-- R38, R39, R148, R150: no receiver step is enabled while `ST.halt` is set, in `DONE`, in `DESYNC`, or in the other mode; the parts
of the receiver's step are enabled as it is (log entry 6). -/
def Obligations.ReceiverIsNotEnabled : Prop :=
  ∀ (ctx : Option U16) (unit : Bytes) (s : State),
    (s.stHalt = true →
      exec (.rxStepFramed ctx) s = .fault .halted ∧ exec (.rxStepPassive ctx) s = .fault .halted ∧
        exec .endOfStream s = .fault .halted ∧ exec (.deliver unit ctx) s = .fault .halted) ∧
    (s.stHalt = false → s.cfg.mode = .framed → exec (.rxStepPassive ctx) s = .fault .wrongMode) ∧
    (s.stHalt = false → s.cfg.mode = .passive → exec (.rxStepFramed ctx) s = .fault .wrongMode) ∧
    (s.stHalt = false → s.cfg.mode = .framed → s.rxPhase = .done → exec (.rxStepFramed ctx) s = .fault .receiverDone) ∧
    (s.stHalt = false → s.cfg.mode = .passive → s.rxPhase = .done → exec (.rxStepPassive ctx) s = .fault .receiverDone) ∧
    (s.stHalt = false → s.cfg.mode = .framed → s.rxPhase = .desync →
      exec (.rxStepFramed ctx) s = .fault .receiverDesync) ∧
    (s.stHalt = false → s.rxPhase = .done →
      exec .endOfStream s = .fault .receiverDone ∧ exec (.deliver unit ctx) s = .fault .receiverDone) ∧
    (s.stHalt = false → s.rxPhase = .desync →
      exec .endOfStream s = .fault .receiverDesync ∧ exec (.deliver unit ctx) s = .fault .receiverDesync)

/-- R56: `StreamRead(n)` yields `n` bytes in order, or end-of-stream after fewer; on a stream that is only bytes it takes exactly the
first `n`; a live transport holds on `Empty` and a finite one ends (R57). -/
def Obligations.StreamReadTakesBytesInOrder : Prop :=
  (∀ (live : Bool) (bs : Bytes) (rest : List Event),
    streamRead live bs.length (bs.map Event.byte ++ rest) [] = .bytes bs rest) ∧
  (∀ (live : Bool) (n : Nat) (events rest : List Event) (got : Bytes),
    streamRead live n events [] = .bytes got rest → got.length = n) ∧
  (∀ (live : Bool) (n k : Nat) (events rest : List Event), streamRead live n events [] = .eos k rest → k < n) ∧
  (∀ (n : Nat) (bs : Bytes) (rest : List Event), bs.length < n →
    streamRead false n (bs.map Event.byte ++ .empty :: rest) [] = .eos bs.length rest ∧
    streamRead true n (bs.map Event.byte ++ .fault :: rest) [] = .eos bs.length rest) ∧
  (∀ (n : Nat) (bs : Bytes) (events rest : List Event) (got : Bytes),
    streamRead true n (bs.map Event.byte ++ events) [] = .bytes got rest →
      bs.length < n → streamRead true n (bs.map Event.byte ++ .empty :: events) [] = .bytes got rest)

/-- The framed receiver's collecting steps are the two `StreamRead`s of R148: whatever `Empty` events a live transport puts between
the bytes, the step that completes the header is reached with the bytes `StreamRead` returns. Stated for the machine's own steps,
with no request pending. -/
def Obligations.FramedHeaderIsAStreamRead : Prop :=
  ∀ (s : State) (got : Bytes) (rest : List Event),
    Inv s → s.port = [] → s.stHalt = false → s.rxPhase = .head →
    streamRead s.cfg.live s.rxNeed s.rxs [] = .bytes got rest →
      ∃ k, run k s =
        .next
          { s with
            rxs := rest, rxBuf := s.rxBuf ++ got, rxPhase := .tail, rxNeed := (le16 (s.rxBuf ++ got) 4).toNat + 2
            ret := .none }

/-- A frame on the wire reaches DISPATCH (41_frame.md R148, R153 and the round trip R145, which the spec marks derived): in framed
mode, from the start of a unit, `22 + L` steps of the machine read one formatted frame and leave what DISPATCH of its function code
and payload leaves, with the Message registers holding its fields and the next event unread. -/
def Obligations.FramedReceiverDeliversAFrame : Prop :=
  ∀ (seq : U16) (src dst : U32) (fn : U16) (payload : Bytes) (rest : List Event) (s : State),
    payload.length ≤ 65535 → s.port = [] → s.stHalt = false → s.cfg.mode = .framed →
    s.rxPhase = .head → s.rxNeed = 20 → s.rxBuf = [] →
    s.rxs = (formatOf seq src dst fn payload).map Event.byte ++ rest →
      run (22 + payload.length) s =
        exec (.dispatch fn payload s.hostCtx)
          (accepted (BitVec.ofNat 16 payload.length) (~~~(BitVec.ofNat 16 payload.length)) seq src dst fn payload
            (crcOf (coverageOf seq src dst fn payload)) { s with rxs := rest })

/-- The same in passive mode after the warm-up (R150; R285, which the spec marks derived): the frame is reported when the magic of
the next one has been read, provided no magic occurs inside it (R287). -/
def Obligations.PassiveReceiverDeliversAFrame : Prop :=
  ∀ (seq : U16) (src dst : U32) (fn : U16) (payload : Bytes) (rest : List Event) (s : State),
    payload.length ≤ 65535 → s.port = [] → s.stHalt = false → s.cfg.mode = .passive →
    s.rxPhase = .scan → s.rxWarm = false → s.rxBuf = [] →
    noMagic ((formatOf seq src dst fn payload).drop 4 ++ [0x12, 0x34, 0x56]) = true →
    s.rxs = ((formatOf seq src dst fn payload).drop 4 ++ [0x12, 0x34, 0x56, 0x79]).map Event.byte ++ rest →
      run (22 + payload.length) s =
        exec (.dispatch fn payload s.hostCtx)
          (accepted (BitVec.ofNat 16 payload.length) (~~~(BitVec.ofNat 16 payload.length)) seq src dst fn payload
            (crcOf (coverageOf seq src dst fn payload)) { s with rxs := rest })

/-! ### The dispatcher -/

/-- R182: the class of the context-dependent function code, what DISPATCH makes of it in the rule's two examples, and for every other
function code the context ignored. -/
def Obligations.ContextSelectsTheDecoder : Prop :=
  ∀ (ctx : Option U16) (f : U16) (pay : Bytes) (s : State),
    (ctx = some s.cfg.ctxCmd → exec (.resolveCtx ctx) s = .next { s with ret := .cls .opmode }) ∧
    (ctx ≠ some s.cfg.ctxCmd → exec (.resolveCtx ctx) s = .next { s with ret := .cls s.cfg.ctxDefault }) ∧
    (∀ name b0 b1 b2 b3, s.cfg.classOf f = .ctx → ctx = some s.cfg.ctxCmd → pay = [b0, b1, b2, b3] →
      s.cfg.opmodeName ⟨b3 ++ (b2 ++ (b1 ++ b0))⟩ = some name →
        exec (.dispatch f pay ctx) s = .next (decodedOk f (.opMode ⟨b3 ++ (b2 ++ (b1 ++ b0))⟩ (some name)) s)) ∧
    (∀ b0 b1 b2 b3, s.cfg.classOf f = .ctx → ctx ≠ some s.cfg.ctxCmd → s.cfg.ctxDefault = .long → pay = [b0, b1, b2, b3] →
      exec (.dispatch f pay ctx) s = .next (decodedOk f (.long (b3 ++ (b2 ++ (b1 ++ b0)))) s)) ∧
    (s.cfg.classOf f ≠ .ctx → exec (.dispatch f pay ctx) s = exec (.dispatch f pay none) s)

/-- R181: the class of the function code, the context resolved, selects the decoder; an unknown function is raised; otherwise the
decoder runs, a raise of it stands, and its result is handed over as `Decoded(fn, r)`. -/
def Obligations.DispatchFollowsTheClass : Prop :=
  ∀ (fn : U16) (pay : Bytes) (ctx : Option U16) (s : State) (k : PlainClass),
    (s.cfg.classOf fn = .plain k ∨
      (s.cfg.classOf fn = .ctx ∧ exec (.resolveCtx ctx) s = .next { s with ret := .cls k })) →
    (k = .unknown → exec (.dispatch fn pay ctx) s = .next (errorState .unknownFunction (.function fn) s)) ∧
    (∀ i, decoderCall k pay = some i →
      ∃ t, exec i s = .next t ∧ exec (.dispatch fn pay ctx) s = .next (afterDecoder fn t))

/-- The message-class rows are the arms of DISPATCH (42_dispatch.md section 2; the reading is log entry 5): for every class, and for
the context-dependent one; and what the rows do that have no decoder of a layout. -/
def Obligations.RowsAreArmsOfDispatch : Prop :=
  ∀ (fn : U16) (pay : Bytes) (ctx : Option U16) (s : State),
    (∀ k, s.cfg.classOf fn = .plain k →
      exec (.dispatch fn pay ctx) s = exec (messageRow (.plain k) fn pay none) s) ∧
    (s.cfg.classOf fn = .ctx → exec (.dispatch fn pay ctx) s = exec (.kCtx fn pay ctx) s) ∧
    (ctx = some s.cfg.ctxCmd → exec (.kCtx fn pay ctx) s = exec (.kOpmode fn pay) s) ∧
    (ctx ≠ some s.cfg.ctxCmd →
      exec (.kCtx fn pay ctx) s = exec (messageRow (.plain s.cfg.ctxDefault) fn pay none) s) ∧
    (∀ b0 b1 b2 b3 name, ctx = some s.cfg.ctxCmd → pay = [b0, b1, b2, b3] →
      s.cfg.opmodeName ⟨b3 ++ (b2 ++ (b1 ++ b0))⟩ = some name →
        exec (.kCtx fn pay ctx) s = .next (decodedOk fn (.opMode ⟨b3 ++ (b2 ++ (b1 ++ b0))⟩ (some name)) s)) ∧
    exec (.kUnknown fn pay) s = .next (errorState .unknownFunction (.function fn) s) ∧
    exec (.kZeroarg fn pay) s = .next (decodedOk fn .empty s) ∧
    exec (.kEncrypted fn pay) s = .next (decodedOk fn .empty s)

/-- R254: an unknown function is raised, whatever the payload; `0xFFFF` is unknown under every configuration the host may supply. -/
def Obligations.UnknownFunctionIsRaised : Prop :=
  ∀ (f : U16) (pay : Bytes) (ctx : Option U16) (s : State),
    (s.cfg.classOf f = .plain .unknown →
      exec (.dispatch f pay ctx) s = .next (errorState .unknownFunction (.function f) s)) ∧
    (s.cfg.classOf f = .ctx → ctx ≠ some s.cfg.ctxCmd → s.cfg.ctxDefault = .unknown →
      exec (.dispatch f pay ctx) s = .next (errorState .unknownFunction (.function f) s)) ∧
    (s.cfg.wf = true →
      exec (.dispatch 0xFFFF pay ctx) s = .next (errorState .unknownFunction (.function 0xFFFF) s))

/-- R187, R188, R190, R191, R192, R193: the decoders of a fixed layout, called by name: the fields, and the refusal of another size. -/
def Obligations.FixedLayoutDecoders : Prop :=
  ∀ (s : State),
    (∀ b0 b1, exec (.decParam [b0, b1]) s = .next (returned (.param (b1 ++ b0)) s)) ∧
    (∀ pay : Bytes, pay.length ≠ 2 →
      exec (.decParam pay) s = .next (sizeRefused (.cls .param) pay.length 2 s)) ∧
    (∀ b0 b1 b2 b3, exec (.decVersion [b0, b1, b2, b3]) s = .next (returned (.version (b1 ++ b0) (b3 ++ b2)) s)) ∧
    (∀ pay : Bytes, pay.length ≠ 4 →
      exec (.decVersion pay) s = .next (sizeRefused (.cls .version) pay.length 4 s)) ∧
    (∀ b0 b1 b2 b3, exec (.decLong [b0, b1, b2, b3]) s = .next (returned (.long (b3 ++ (b2 ++ (b1 ++ b0)))) s)) ∧
    (∀ pay : Bytes, pay.length ≠ 4 → exec (.decLong pay) s = .next (sizeRefused (.cls .long) pay.length 4 s)) ∧
    (∀ b0 b1 b2 b3 b4 b5,
      exec (.decValtype [b0, b1, b2, b3, b4, b5]) s =
        .next (returned (.valType (b3 ++ (b2 ++ (b1 ++ b0))) (b5 ++ b4)) s)) ∧
    (∀ pay : Bytes, pay.length ≠ 6 →
      exec (.decValtype pay) s = .next (sizeRefused (.cls .valtype) pay.length 6 s)) ∧
    (∀ b0 b1 b2 b3 b4 b5,
      exec (.decParamval [b0, b1, b2, b3, b4, b5]) s =
        .next (returned (.paramVal (b1 ++ b0) (b5 ++ (b4 ++ (b3 ++ b2)))) s)) ∧
    (∀ pay : Bytes, pay.length ≠ 6 →
      exec (.decParamval pay) s = .next (sizeRefused (.cls .paramval) pay.length 6 s)) ∧
    (∀ b0 b1 b2 b3 b4 b5 b6 b7,
      exec (.decTime [b0, b1, b2, b3, b4, b5, b6, b7]) s =
        .next (returned (.time (b3 ++ (b2 ++ (b1 ++ b0))) ⟨b7 ++ (b6 ++ (b5 ++ b4))⟩) s)) ∧
    (∀ pay : Bytes, pay.length ≠ 8 → exec (.decTime pay) s = .next (sizeRefused (.cls .time) pay.length 8 s))

/-- R185, R186: the two decoders with a name table: a name, a flagged miss that still returns the raw value, or the refusal of another
size. -/
def Obligations.NameTableDecoders : Prop :=
  ∀ (s : State) (b0 b1 b2 b3 : Byte) (name : String) (pay : Bytes),
    (s.cfg.opmodeName ⟨b3 ++ (b2 ++ (b1 ++ b0))⟩ = some name →
      exec (.decOpmode [b0, b1, b2, b3]) s =
        .next (returned (.opMode ⟨b3 ++ (b2 ++ (b1 ++ b0))⟩ (some name)) s)) ∧
    (s.cfg.opmodeName ⟨b3 ++ (b2 ++ (b1 ++ b0))⟩ = none →
      exec (.decOpmode [b0, b1, b2, b3]) s =
        .next (returned (.opMode ⟨b3 ++ (b2 ++ (b1 ++ b0))⟩ none) { s with stCode := .mapMiss, stInfo := .none })) ∧
    (pay.length ≠ 4 → exec (.decOpmode pay) s = .next (sizeRefused (.cls .opmode) pay.length 4 s)) ∧
    (s.cfg.statusName (b1 ++ b0) = some name →
      exec (.decStatus [b0, b1]) s = .next (returned (.status (b1 ++ b0) (some name)) s)) ∧
    (s.cfg.statusName (b1 ++ b0) = none →
      exec (.decStatus [b0, b1]) s =
        .next (returned (.status (b1 ++ b0) none) { s with stCode := .mapMiss, stInfo := .none })) ∧
    (pay.length ≠ 2 → exec (.decStatus pay) s = .next (sizeRefused (.cls .status) pay.length 2 s))

/-- R189, R194: the two decoders of a variable layout: offset, length and the remaining bytes, `length` not compared with the data;
an empty status or seven 16-bit fields; the refusal of another size. -/
def Obligations.VariableLayoutDecoders : Prop :=
  ∀ (s : State) (a0 a1 b0 b1 c0 c1 d0 d1 e0 e1 f0 f1 g0 g1 : Byte) (data pay : Bytes),
    exec (.decOfflen ([a0, a1, b0, b1, c0, c1, d0, d1] ++ data)) s =
      .next (returned (.offLen (b1 ++ (b0 ++ (a1 ++ a0))) (d1 ++ (d0 ++ (c1 ++ c0))) data) s) ∧
    (pay.length < 8 → exec (.decOfflen pay) s = .next (sizeRefused (.cls .offlen) pay.length 8 s)) ∧
    exec (.decStatusvec []) s = .next (returned (.statusVec []) s) ∧
    exec (.decStatusvec [a0, a1, b0, b1, c0, c1, d0, d1, e0, e1, f0, f1, g0, g1]) s =
      .next (returned
        (.statusVec [a1 ++ a0, b1 ++ b0, c1 ++ c0, d1 ++ d0, e1 ++ e0, f1 ++ f0, g1 ++ g0]) s) ∧
    (pay.length ≠ 0 → pay.length ≠ 14 →
      exec (.decStatusvec pay) s = .next (sizeRefused (.cls .statusvec) pay.length 14 s))

/-- R184: the decoder that does not read the payload, called by name and by DISPATCH for the two classes that use it. -/
def Obligations.EmptyResultWithoutReading : Prop :=
  ∀ (f : U16) (pay : Bytes) (ctx : Option U16) (s : State),
    exec (.decNone pay) s = .next (returned .empty s) ∧
    (s.cfg.classOf f = .plain .zeroarg → exec (.dispatch f pay ctx) s = .next (decodedOk f .empty s)) ∧
    (s.cfg.classOf f = .plain .encrypted → exec (.dispatch f pay ctx) s = .next (decodedOk f .empty s))

/-- The rows of a fixed layout, as DISPATCH's arms (42_dispatch.md sections 2 and 3; the reading of a class row is log entry 5). -/
def Obligations.FixedLayoutRows : Prop :=
  ∀ (f : U16) (s : State) (b0 b1 b2 b3 b4 b5 b6 b7 : Byte),
    exec (.kParam f [b0, b1]) s = .next (decodedOk f (.param (b1 ++ b0)) s) ∧
    exec (.kVersion f [b0, b1, b2, b3]) s = .next (decodedOk f (.version (b1 ++ b0) (b3 ++ b2)) s) ∧
    exec (.kLong f [b0, b1, b2, b3]) s = .next (decodedOk f (.long (b3 ++ (b2 ++ (b1 ++ b0)))) s) ∧
    exec (.kValtype f [b0, b1, b2, b3, b4, b5]) s =
      .next (decodedOk f (.valType (b3 ++ (b2 ++ (b1 ++ b0))) (b5 ++ b4)) s) ∧
    exec (.kParamval f [b0, b1, b2, b3, b4, b5]) s =
      .next (decodedOk f (.paramVal (b1 ++ b0) (b5 ++ (b4 ++ (b3 ++ b2)))) s) ∧
    exec (.kTime f [b0, b1, b2, b3, b4, b5, b6, b7]) s =
      .next (decodedOk f (.time (b3 ++ (b2 ++ (b1 ++ b0))) ⟨b7 ++ (b6 ++ (b5 ++ b4))⟩) s)

/-- The rows with a name table and the rows of a variable layout (42_dispatch.md sections 2 and 3; log entry 5): `OK` with a name,
`MapMiss` without one; offset, length and data; no field or seven. -/
def Obligations.NameTableAndVariableRows : Prop :=
  ∀ (f : U16) (s : State) (b0 b1 b2 b3 b4 b5 b6 b7 : Byte) (data : Bytes) (name : String)
    (a0 a1 c0 c1 d0 d1 e0 e1 g0 g1 h0 h1 i0 i1 : Byte),
    (s.cfg.opmodeName ⟨b3 ++ (b2 ++ (b1 ++ b0))⟩ = some name →
      exec (.kOpmode f [b0, b1, b2, b3]) s = .next (decodedOk f (.opMode ⟨b3 ++ (b2 ++ (b1 ++ b0))⟩ (some name)) s)) ∧
    (s.cfg.opmodeName ⟨b3 ++ (b2 ++ (b1 ++ b0))⟩ = none →
      exec (.kOpmode f [b0, b1, b2, b3]) s = .next (decodedMiss f (.opMode ⟨b3 ++ (b2 ++ (b1 ++ b0))⟩ none) s)) ∧
    (s.cfg.statusName (b1 ++ b0) = some name →
      exec (.kStatus f [b0, b1]) s = .next (decodedOk f (.status (b1 ++ b0) (some name)) s)) ∧
    (s.cfg.statusName (b1 ++ b0) = none →
      exec (.kStatus f [b0, b1]) s = .next (decodedMiss f (.status (b1 ++ b0) none) s)) ∧
    exec (.kOfflen f ([b0, b1, b2, b3, b4, b5, b6, b7] ++ data)) s =
      .next (decodedOk f (.offLen (b3 ++ (b2 ++ (b1 ++ b0))) (b7 ++ (b6 ++ (b5 ++ b4))) data) s) ∧
    exec (.kStatusvec f []) s = .next (decodedOk f (.statusVec []) s) ∧
    exec (.kStatusvec f [a0, a1, c0, c1, d0, d1, e0, e1, g0, g1, h0, h1, i0, i1]) s =
      .next (decodedOk f
        (.statusVec [a1 ++ a0, c1 ++ c0, d1 ++ d0, e1 ++ e0, g1 ++ g0, h1 ++ h0, i1 ++ i0]) s)

/-- R195: each class with a fixed layout requires exactly its size, `K_STATUSVEC` 0 or 14 bytes, `K_OFFLEN` at least 8; any other size
is refused; `K_ZEROARG` and `K_ENCRYPTED` accept any size. -/
def Obligations.WrongPayloadSizeIsRefused : Prop :=
  ∀ (fn : U16) (pay : Bytes) (ctx : Option U16) (s : State),
    let accepts := ∃ t r, exec (.dispatch fn pay ctx) s = .next t ∧ t.ret = .decoded fn r
    let refuses := fun k want => exec (.dispatch fn pay ctx) s = .next (sizeRefused (.cls k) pay.length want s)
    (∀ k n,
      (k, n) ∈ [(PlainClass.opmode, 4), (.status, 2), (.param, 2), (.version, 4), (.long, 4), (.valtype, 6), (.paramval, 6),
        (.time, 8)] →
      s.cfg.classOf fn = .plain k → (pay.length = n → accepts) ∧ (pay.length ≠ n → refuses k n)) ∧
    (s.cfg.classOf fn = .plain .statusvec →
      (pay.length = 0 ∨ pay.length = 14 → accepts) ∧ (pay.length ≠ 0 → pay.length ≠ 14 → refuses .statusvec 14)) ∧
    (s.cfg.classOf fn = .plain .offlen → (8 ≤ pay.length → accepts) ∧ (pay.length < 8 → refuses .offlen 8)) ∧
    ((s.cfg.classOf fn = .plain .zeroarg ∨ s.cfg.classOf fn = .plain .encrypted) → accepts)

/-- R181 and R198, as a whole-machine rule the spec derives: DISPATCH does not read the Message registers or the payload buffer, so two
states that differ only there end alike, the registers kept. -/
def Obligations.DispatchReadsNoMessageRegister : Prop :=
  ∀ (fn : U16) (pay : Bytes) (ctx : Option U16) (s t : State) (seq fnReg len lenInv cks : U16) (src dst : U32)
    (buf : Bytes),
    exec (.dispatch fn pay ctx) s = .next t →
      exec (.dispatch fn pay ctx)
          { s with
            mSeq := seq, mFrom := src, mTo := dst, mFn := fnReg, mLen := len, mLenInv := lenInv, mCks := cks, pay := buf } =
        .next
          { t with
            mSeq := seq, mFrom := src, mTo := dst, mFn := fnReg, mLen := len, mLenInv := lenInv, mCks := cks, pay := buf }

/-! ### Device data -/

/-- R223: bit 23 is cleared and every other bit kept. -/
def Obligations.DeviceIdNormalised : Prop :=
  ∀ (x : U32) (s : State), ∃ v : U32, exec (.devNormid x) s = .next { s with ret := .id v } ∧
    ∀ k < 32, v.getLsbD k = (x.getLsbD k && decide (k ≠ 23))

/-- 43_device_data.md section 4, the three sub-decoders without a layout (R220): the normalised id and the sub-payload, uncut. -/
def Obligations.SubDecodersWithoutLayout : Prop :=
  ∀ (id : U32) (sub : Bytes) (s : State),
    (s.cfg.layoutOptLegacy = none →
      exec (.devOptLegacy id sub) s = .next { s with ret := .record (.optLegacy id (.uncut sub)) }) ∧
    (s.cfg.layoutInverter = none →
      exec (.devInverter id sub) s = .next { s with ret := .record (.inverter id (.uncut sub)) }) ∧
    (s.cfg.layoutEvent = none →
      exec (.devEvent id sub) s = .next { s with ret := .record (.event id (.uncut sub)) })

/-- The three sub-decoders when the host gives a layout (R99, R220; the form of a layout and the refusal of another size are log
entry 8): for every layout, a sub-payload of its size gives the ordered fields, each by its kind; another size is refused. -/
def Obligations.LayoutsAreApplied : Prop :=
  ∀ (id : U32) (sub : Bytes) (l : Layout) (s : State),
    (s.cfg.layoutOptLegacy = some l →
      (sub.length = l.size →
        exec (.devOptLegacy id sub) s = .next { s with ret := .record (.optLegacy id (.cut (fieldsAt l sub))) }) ∧
      (sub.length ≠ l.size →
        exec (.devOptLegacy id sub) s = .next (sizeRefused .sOptLegacy sub.length l.size s))) ∧
    (s.cfg.layoutInverter = some l →
      (sub.length = l.size →
        exec (.devInverter id sub) s = .next { s with ret := .record (.inverter id (.cut (fieldsAt l sub))) }) ∧
      (sub.length ≠ l.size →
        exec (.devInverter id sub) s = .next (sizeRefused .sInverter sub.length l.size s))) ∧
    (s.cfg.layoutEvent = some l →
      (sub.length = l.size →
        exec (.devEvent id sub) s = .next { s with ret := .record (.event id (.cut (fieldsAt l sub))) }) ∧
      (sub.length ≠ l.size →
        exec (.devEvent id sub) s = .next (sizeRefused .sEvent sub.length l.size s)))

/-- R227 and the byte form of R98, under the placement `COMPACT_OPT_BITS` the spec decides (a hypothesis, as D17 asks): the fields of a
compact optimizer record; bytes from offset 13 on are not read; fewer than 13 are refused. -/
def Obligations.CompactRecordFields : Prop :=
  ∀ (id : U32) (b0 b1 b2 b3 b4 b5 b6 b7 b8 b9 b10 b11 b12 : Byte) (rest sub : Bytes) (s : State),
    (s.cfg.compactBits = ⟨0, 10, 20⟩ →
      exec (.devOptCompact id ([b0, b1, b2, b3, b4, b5, b6, b7, b8, b9, b10, b11, b12] ++ rest)) s =
        .next
          { s with
            ret := .record (.optCompact id (b3 ++ (b2 ++ (b1 ++ b0))) (b5 ++ b4)
              (b6.setWidth 10 ||| ((b7 &&& 0x03).setWidth 10 <<< 8))
              ((b7 >>> 2).setWidth 10 ||| ((b8 &&& 0x0F).setWidth 10 <<< 6))
              ((b8 >>> 4).setWidth 12 ||| (b9.setWidth 12 <<< 4))
              (b11 ++ b10) ⟨b12⟩ 0) }) ∧
    (sub.length < 13 → exec (.devOptCompact id sub) s = .next (sizeRefused .sOptCompact sub.length 13 s))

/-- R228 and the document's worked case: the temperature byte read as two's complement, times 2; `0xEC` is -40. -/
def Obligations.TemperatureIsSignedAndScaled : Prop :=
  (∀ v : Byte, v.toNat < 128 → ((signed8 v).toInt : Rat) * scaleTemp = 2 * v.toNat) ∧
  (∀ v : Byte, 128 ≤ v.toNat → ((signed8 v).toInt : Rat) * scaleTemp = 2 * v.toNat - 512) ∧
  ((signed8 0xEC).toInt : Rat) * scaleTemp = -40

/-- 43_device_data.md section 4 (R230) and 60_exceptions.md section 1 (R250): a sub-record with an unrecognised tag is counted and its
tag recorded; nothing else happens. That the tag is kept in the list `stTags` is the model's choice (log entry 30). -/
def Obligations.UnrecognisedTagIsCounted : Prop :=
  ∀ (tag : U16) (id : U32) (sublen : U16) (s : State),
    exec (.devSkip tag id sublen) s = .next { s with stSub := s.stSub + 1, stTags := s.stTags ++ [tag], ret := .none }

/-- The sub-record rows (43_device_data.md sections 2 to 4; the reading of a sub-record row is log entry 7): the id normalised, the
record of the tag; a tag that is none of the four is counted. -/
def Obligations.SubRecordRows : Prop :=
  ∀ (devid : U32) (sub : Bytes) (s : State), noLayouts s →
    exec (.subOptLegacy devid sub) s =
      .next { s with ret := .record (.optLegacy (devid &&& 0xFF7FFFFF) (.uncut sub)) } ∧
    exec (.subInverter devid sub) s =
      .next { s with ret := .record (.inverter (devid &&& 0xFF7FFFFF) (.uncut sub)) } ∧
    exec (.subEvent devid sub) s =
      .next { s with ret := .record (.event (devid &&& 0xFF7FFFFF) (.uncut sub)) } ∧
    (13 ≤ sub.length →
      exec (.subOptCompact devid sub) s =
        .next { s with ret := .record (compactRecord s.cfg.compactBits (devid &&& 0xFF7FFFFF) sub) }) ∧
    (sub.length < 13 →
      exec (.subOptCompact devid sub) s = .next (sizeRefused .sOptCompact sub.length 13 s)) ∧
    (∀ tag : U16, tag ≠ 0x0000 → tag ≠ 0x0080 → tag ≠ 0x0010 → tag ≠ 0x0300 →
      exec (.subOther tag devid sub) s =
        .next { s with stSub := s.stSub + 1, stTags := s.stTags ++ [tag], ret := .none })

/-- The walker on every well-formed payload (R221 without its refusals; the laws R231 are instances): the records in payload order,
the unrecognised sub-records counted and their tags recorded (log entry 30), whatever their number; by name and, by the model's reading
of a class row (log entry 5), as the message row. -/
def Obligations.WalkerDecodesEveryRun : Prop :=
  ∀ (xs : List Sub) (f : U16) (s : State), noLayouts s → subsFit xs →
    let r := Result.devData (xs.filterMap (recordOf s.cfg.compactBits)) (skippedOf s.cfg.compactBits xs)
    exec (.decDevdata (subBytes xs)) s = .next (returned r (walked xs s)) ∧
    exec (.kDevdata f (subBytes xs)) s = .next (decodedOk f r (walked xs s))

/-- The walker's refusals (R221): after any run of well-formed sub-records, a piece of one to seven bytes, a sub-payload that runs past
the end, or a compact record that is too short refuses the whole decode; no record is handed over. That `ST.sub` and the recorded
tags then hold what was skipped before the refusal is the model's reading (log entry 24). -/
def Obligations.WalkerRefusesTruncation : Prop :=
  ∀ (xs : List Sub) (piece : Bytes) (s : State), noLayouts s → subsFit xs →
    let t := walked xs s
    let at_ := (subBytes xs).length
    (0 < piece.length → piece.length < 8 →
      exec (.decDevdata (subBytes xs ++ piece)) s =
        .next (refusalState .subRecordTruncated (.truncated at_ piece.length 8) t)) ∧
    (8 ≤ piece.length → piece.length < 8 + (le16 piece 6).toNat →
      exec (.decDevdata (subBytes xs ++ piece)) s =
        .next (refusalState .subRecordTruncated (.truncated at_ (piece.length - 8) (le16 piece 6).toNat) t)) ∧
    (∀ (devid : U32) (sub rest : Bytes), sub.length < 13 → piece = encodeSub 0x0080 devid sub ++ rest →
      exec (.decDevdata (subBytes xs ++ piece)) s = .next (sizeRefused .sOptCompact sub.length 13 t))

/-- 43_device_data.md section 5 (R231 item (c), marked derived): two payloads that decode, put together, give the records of the first
followed by those of the second, and the sum of the counts; for every layout the host may give. The recorded tags (log entry 30) come
in the same order. -/
def Obligations.WalkerIsAHomomorphism : Prop :=
  ∀ (a b : Bytes) (s t u : State) (ra rb : List DevRec) (na nb : Nat),
    exec (.decDevdata a) s = .next t → t.ret = .result (.devData ra na) →
    exec (.decDevdata b) s = .next u → u.ret = .result (.devData rb nb) →
      exec (.decDevdata (a ++ b)) s =
        .next
          { s with stSub := na + nb, stTags := t.stTags ++ u.stTags, ret := .result (.devData (ra ++ rb) (na + nb)) }

/-! ### System operations -/

/-- R280: what SYS.RESET writes, in both modes; `CFG`, `RXS`, `TXS` and the host's side are kept; and no other instruction clears
`ST.halt`, `ST.refused` or phase `DESYNC`. -/
def Obligations.ResetWritesItsTable : Prop :=
  ∀ s : State,
    let clean : State :=
      { s with
        crcAcc := 0x5A5A, mSeq := 0, mFrom := 0, mTo := 0, mFn := 0, mLen := 0, mLenInv := 0, mCks := 0, pay := []
        rxBuf := [], stCode := .ok, stInfo := .none, stWire := 0, stCalc := 0, stSub := 0, stTags := []
        stPartial := 0
        stRefused := false, stHalt := false, txBusy := false, ret := .none }
    (s.cfg.mode = .framed → exec .sysReset s = .next { clean with rxPhase := .head, rxNeed := 20, rxWarm := false }) ∧
    (s.cfg.mode = .passive → exec .sysReset s = .next { clean with rxPhase := .scan, rxNeed := 0, rxWarm := true }) ∧
    (∀ (i : Instr) (t : State), exec i s = .next t → i ≠ .sysReset →
      (s.stHalt = true → t.stHalt = true) ∧ (s.stRefused = true → t.stRefused = true) ∧
        (s.rxPhase = .desync → t.rxPhase = .desync))

/-- 60_exceptions.md section 3 (R266): SYS.REOPEN answers an end-of-stream: new streams, the receiver as at reset; it is not enabled in
any other phase. The model's choices (log entry 16): the operand is the new input stream, the new output stream is empty, and `ST.code`,
the other fields of ST that R266 does not name and the Message registers are kept. -/
def Obligations.ReopenRestartsTheReceiver : Prop :=
  ∀ (stream : List Event) (s : State),
    (s.rxPhase = .done → s.cfg.mode = .framed →
      exec (.sysReopen stream) s =
        .next
          { s with
            rxs := stream, txs := [], rxBuf := [], rxPhase := .head, rxNeed := 20, rxWarm := false, ret := .none }) ∧
    (s.rxPhase = .done → s.cfg.mode = .passive →
      exec (.sysReopen stream) s =
        .next
          { s with
            rxs := stream, txs := [], rxBuf := [], rxPhase := .scan, rxNeed := 0, rxWarm := true, ret := .none }) ∧
    (s.rxPhase ≠ .done → exec (.sysReopen stream) s = .fault .notDone)

/-! ### Encodings and the step -/

/-- Decode and encode agree (R81, R97, R101): every well-formed instruction, with every operand its encoding admits, is what the decoder
reads from its command. -/
def Obligations.DecodeInvertsEncode : Prop :=
  ∀ (cfg : Cfg) (i : Instr), i.wf cfg = true → decode cfg (encode i) = .ok i

/-- What the decoder gives is well formed: no encoding slips past the checks. -/
def Obligations.DecodedInstructionIsWellFormed : Prop :=
  ∀ (cfg : Cfg) (c : Cmd) (i : Instr), decode cfg c = .ok i → i.wf cfg = true

/-- Each frame and each sub-record has one meaning: its bytes are the encoding of what was decoded from them. -/
def Obligations.DecodedBytesAreTheEncoding : Prop :=
  ∀ (cfg : Cfg) (b : Bytes) (i : Instr),
    (decode cfg (.wire b) = .ok i → encode i = .wire b) ∧ (decode cfg (.sub b) = .ok i → encode i = .sub b)

/-- Words written out from the spec's encodings (R81, R97, R101) decode to what they stand for. -/
def Obligations.SpecWordsDecode : Prop :=
  (∀ cfg : Cfg,
    decode cfg (.wire [0x12, 0x34, 0x56, 0x79, 0x04, 0x00, 0xFB, 0xFF, 0x34, 0x12, 0x44, 0x33, 0x22, 0x11, 0x88, 0x77, 0x66,
        0x55, 0x80, 0x00, 0xDE, 0xAD, 0xBE, 0xEF, 0xF1, 0x9E]) =
      .ok (.frame 0x0004 0xFFFB 0x1234 0x11223344 0x55667788 0x0080 [0xDE, 0xAD, 0xBE, 0xEF] 0x9EF1)) ∧
  (∀ cfg : Cfg,
    decode cfg (.sub [0x00, 0x00, 0x01, 0x00, 0x90, 0x10, 0x02, 0x00, 0xAA, 0xBB]) =
      .ok (.subOptLegacy 0x10900001 [0xAA, 0xBB])) ∧
  (∀ cfg : Cfg,
    decode cfg (.sub [0x99, 0x00, 0x01, 0x00, 0x00, 0x00, 0x03, 0x00, 0x01, 0x02, 0x03]) =
      .ok (.subOther 0x0099 0x00000001 [0x01, 0x02, 0x03])) ∧
  (∀ cfg : Cfg, cfg.classOf 0x0580 = .plain .time →
    decode cfg (.msg [0x80, 0x05, 0x00, 0x00, 0x00, 0x65, 0xF0, 0xF1, 0xFF, 0xFF] none) =
      .ok (.kTime 0x0580 [0x00, 0x00, 0x00, 0x65, 0xF0, 0xF1, 0xFF, 0xFF]))

/-- A step runs the decoded instruction: the host's first request, taken from the port; with none pending, the receiver's own step; a
request that is no instruction stops the step; and an opcode-table word that is placed is what runs next. The port is the model's
(log entry 2). -/
def Obligations.StepRunsTheNextInstruction : Prop :=
  (∀ (s : State) (c : Cmd) (rest : List Cmd) (i : Instr),
    s.port = c :: rest → decode s.cfg c = .ok i → step s = exec i { s with port := rest }) ∧
  (∀ (s : State) (c : Cmd) (rest : List Cmd) (e : DecodeError),
    s.port = c :: rest → decode s.cfg c = .error e → step s = .refused (.undecodable e)) ∧
  (∀ s : State, s.port = [] → s.cfg.mode = .framed → step s = exec (.rxStepFramed s.hostCtx) s) ∧
  (∀ s : State, s.port = [] → s.cfg.mode = .passive → step s = exec (.rxStepPassive s.hostCtx) s) ∧
  (∀ (s : State) (nbits w : Nat) (i : Instr), decodeTableWord nbits w = some i → step (s.withFetchWord nbits w) = exec i s)

/-! ### The whole machine -/

/-- R23, R24 and R143 over all instructions (20_memory.md section 9, 41_frame.md section 2): only FRAME.PARSE (as itself, as the
frame row, in DELIVER and in the receivers' steps) and SYS.RESET write the Message registers and `PAY`; what they leave is the null
message, or one message whole (length pair, payload length and checksum agreeing), or, after an error of FRAME.PARSE, nothing that a
rule may read (log entry 10). -/
def Obligations.MessageRegistersAreWrittenWhole : Prop :=
  ∀ (i : Instr) (s t : State), exec i s = .next t →
    SameMessage s t ∨
      (((∃ len lenInv seq src dst fn payload cks, i = .frame len lenInv seq src dst fn payload cks) ∨
          (∃ body, i = .frameParse body) ∨ (∃ unit ctx, i = .deliver unit ctx) ∨ (∃ ctx, i = .rxStepFramed ctx) ∨
          (∃ ctx, i = .rxStepPassive ctx) ∨ i = .sysReset) ∧
        (NullMessage t ∨ WholeMessage t ∨ t.stCode = .lengthMismatch ∨ t.stCode = .sizeMismatch ∨
          t.stCode = .checksumMismatch))

/-- The invariant holds after SYS.RESET and in the state right after power-up, under every well-formed configuration. -/
def Obligations.ResetHasTheInvariant : Prop :=
  (∀ cfg : Cfg, cfg.wf = true → Inv (State.resetOf cfg)) ∧ Inv State.reset ∧
  (∀ s t : State, s.cfg.wf = true → exec .sysReset s = .next t → Inv t)

/-- Every step keeps the invariant, from every state that has it. -/
def Obligations.EveryStepKeepsTheInvariant : Prop := ∀ s t : State, Inv s → step s = .next t → Inv t

/-- 10_state.md section 6 and 41_frame.md section 3 (R38, R149, R152), over all instructions: phase `DESYNC` is entered only with
`BadMagic` and left only by SYS.RESET; phase `DONE` is entered only with `NoMessage` and left only by SYS.RESET and SYS.REOPEN. -/
def Obligations.TerminalPhases : Prop :=
  ∀ (i : Instr) (s t : State), exec i s = .next t →
    (s.rxPhase ≠ .desync → t.rxPhase = .desync → t.stCode = .badMagic ∧ t.stRefused = true ∧ t.ret = .none) ∧
    (s.rxPhase = .desync → i = .sysReset ∨ t.rxPhase = .desync) ∧
    (s.rxPhase ≠ .done → t.rxPhase = .done → t.stCode = .noMessage ∧ t.rxBuf = [] ∧ t.ret = .noMessage) ∧
    (s.rxPhase = .done → i = .sysReset ∨ (∃ stream, i = .sysReopen stream) ∨ t.rxPhase = .done)

/-- 60_exceptions.md sections 1 and 2, over all instructions: `ST.halt` is set only by an error kind under `CFG.HALT_ON_ERROR`, and
`ST.refused` only by one of the four refusals; when it becomes set, `ST.code` holds that kind and nothing is handed over. -/
def Obligations.ErrorPolicy : Prop :=
  ∀ (i : Instr) (s t : State), exec i s = .next t →
    (s.stHalt = false → t.stHalt = true → s.cfg.haltOnError = true ∧ t.stCode.isError = true ∧ t.ret = .none) ∧
    (s.stRefused = false → t.stRefused = true → t.stCode.isRefusal = true ∧ t.ret = .none)

/-- 20_memory.md sections 1 and 9, over all instructions: the configuration and the host's side are never written, the input stream is
only consumed from its front (by at most one event) and the output stream only grows, by whole frames of FRAME.SEND; SYS.REOPEN
alone brings new streams (R266, 60_exceptions.md section 3). The model's choices: that the operand of SYS.REOPEN is the new input stream
and the new output stream is empty (log entry 16), and the host's side as the fields `port` and `hostCtx` (log entries 2 and 18). -/
def Obligations.StreamsAndConfigurationFrame : Prop :=
  ∀ (i : Instr) (s t : State), exec i s = .next t →
    t.cfg = s.cfg ∧ t.hostCtx = s.hostCtx ∧ t.port = s.port ∧
    ((∃ stream, i = .sysReopen stream ∧ t.rxs = stream ∧ t.txs = []) ∨
      ((t.rxs = s.rxs ∨ ∃ e, s.rxs = e :: t.rxs) ∧
        (t.txs = s.txs ∨
          ∃ seq src dst fn payload, i = .frameSend seq src dst fn payload ∧
            t.txs = s.txs ++ formatOf seq src dst fn payload)))
end

