-- ==== Sys2Proof/Laws/Bytes.lean ====
section
/-! SUPPORT. Bytes and integers: reading back what was encoded, reading past a prefix, and the small facts about byte sequences
the other files cite. -/

namespace Sys2Proof

/-! ### Lengths -/

@[simp] theorem encLE16_length (v : U16) : (encLE16 v).length = 2 := rfl
@[simp] theorem encLE32_length (v : U32) : (encLE32 v).length = 4 := rfl
@[simp] theorem encBE16_length (v : U16) : (encBE16 v).length = 2 := rfl
@[simp] theorem encBE32_length (v : U32) : (encBE32 v).length = 4 := rfl
@[simp] theorem magic_length : magic.length = 4 := rfl

theorem encodeFrame_length (len lenInv seq : U16) (src dst : U32) (fn : U16) (payload : Bytes) (cks : U16) :
    (encodeFrame len lenInv seq src dst fn payload cks).length = 22 + payload.length := by
  simp [encodeFrame]; omega

/-! ### Reading bytes -/

theorem byteAt_append_left (a b : Bytes) (i : Nat) (h : i < a.length) : byteAt (a ++ b) i = byteAt a i := by
  simp [byteAt, List.getD_eq_getElem?_getD, List.getElem?_append_left h]

theorem byteAt_append_right (a b : Bytes) (i : Nat) : byteAt (a ++ b) (a.length + i) = byteAt b i := by
  simp [byteAt, List.getD_eq_getElem?_getD, List.getElem?_append_right]

theorem le16_append_left (a b : Bytes) (i : Nat) (h : i + 1 < a.length) : le16 (a ++ b) i = le16 a i := by
  simp [le16, byteAt_append_left a b _ (by omega : i < a.length), byteAt_append_left a b _ h]

theorem le16_append_right (a b : Bytes) (i : Nat) : le16 (a ++ b) (a.length + i) = le16 b i := by
  simp [le16, Nat.add_assoc, byteAt_append_right]

theorem le32_append_left (a b : Bytes) (i : Nat) (h : i + 3 < a.length) : le32 (a ++ b) i = le32 a i := by
  simp [le32, byteAt_append_left a b _ (by omega : i < a.length), byteAt_append_left a b _ (by omega : i + 1 < a.length),
    byteAt_append_left a b _ (by omega : i + 2 < a.length), byteAt_append_left a b _ h]

theorem le32_append_right (a b : Bytes) (i : Nat) : le32 (a ++ b) (a.length + i) = le32 b i := by
  simp [le32, Nat.add_assoc, byteAt_append_right]

/-- The low and the high byte of a 16-bit value. -/
def lo16 (v : U16) : Byte := v.extractLsb' 0 8
def hi16 (v : U16) : Byte := v.extractLsb' 8 8

theorem join16 (v : U16) :
    ((v.extractLsb' 0 8).setWidth 16 ||| ((v.extractLsb' 8 8).setWidth 16 <<< 8) : U16) = v := by
  ext i hi
  simp only [BitVec.getElem_or, BitVec.getElem_setWidth, BitVec.getLsbD_extractLsb', BitVec.getElem_shiftLeft,
    BitVec.getElem_setWidth]
  rcases Nat.lt_or_ge i 8 with h | h
  · simp [h, BitVec.getLsbD_eq_getElem hi]
  · simp [show ¬ i < 8 by omega, show i - 8 < 8 by omega, show 8 + (i - 8) = i by omega, BitVec.getLsbD_eq_getElem hi]

theorem join32 (v : U32) :
    ((v.extractLsb' 0 8).setWidth 32 ||| ((v.extractLsb' 8 8).setWidth 32 <<< 8) |||
      ((v.extractLsb' 16 8).setWidth 32 <<< 16) ||| ((v.extractLsb' 24 8).setWidth 32 <<< 24) : U32) = v := by
  ext i hi
  simp only [BitVec.getElem_or, BitVec.getElem_setWidth, BitVec.getLsbD_extractLsb', BitVec.getElem_shiftLeft,
    BitVec.getElem_setWidth]
  rcases Nat.lt_or_ge i 8 with h | h
  · simp [h, show i < 16 by omega, show i < 24 by omega, BitVec.getLsbD_eq_getElem hi]
  · rcases Nat.lt_or_ge i 16 with h2 | h2
    · simp [show ¬ i < 8 by omega, h2, show i < 24 by omega, show i - 8 < 8 by omega, show 8 + (i - 8) = i by omega,
        BitVec.getLsbD_eq_getElem hi]
    · rcases Nat.lt_or_ge i 24 with h3 | h3
      · simp [show ¬ i < 8 by omega, show ¬ i < 16 by omega, show ¬ i - 8 < 8 by omega, h3,
          show i - 16 < 8 by omega, show 16 + (i - 16) = i by omega, BitVec.getLsbD_eq_getElem hi]
      · simp [show ¬ i < 8 by omega, show ¬ i < 16 by omega, show ¬ i < 24 by omega, show ¬ i - 8 < 8 by omega,
          show ¬ i - 16 < 8 by omega, show i - 24 < 8 by omega, show 24 + (i - 24) = i by omega,
          BitVec.getLsbD_eq_getElem hi]

@[simp] theorem le16_encLE16 (v : U16) (rest : Bytes) : le16 (encLE16 v ++ rest) 0 = v := by
  simpa [le16, byteAt, encLE16] using join16 v

@[simp] theorem le32_encLE32 (v : U32) (rest : Bytes) : le32 (encLE32 v ++ rest) 0 = v := by
  simpa [le32, byteAt, encLE32] using join32 v

/-! ### Integers as their bytes: `b1 ++ b0` is the 16-bit value whose high byte is `b1` -/

theorem getLsbD_pair16 (hi lo : Byte) (i : Nat) :
    (hi ++ lo : U16).getLsbD i = if i < 8 then lo.getLsbD i else hi.getLsbD (i - 8) := BitVec.getLsbD_append
theorem getLsbD_quad32 (b3 b2 b1 b0 : Byte) (i : Nat) :
    (b3 ++ (b2 ++ (b1 ++ b0)) : U32).getLsbD i =
      if i < 8 then b0.getLsbD i else if i < 16 then b1.getLsbD (i - 8)
      else if i < 24 then b2.getLsbD (i - 16) else b3.getLsbD (i - 24) := by
  have h : (b3 ++ (b2 ++ (b1 ++ b0)) : U32).getLsbD i =
      if i < 24 then (b2 ++ (b1 ++ b0)).getLsbD i else b3.getLsbD (i - 24) := BitVec.getLsbD_append
  have h2 : (b2 ++ (b1 ++ b0)).getLsbD i = if i < 16 then (b1 ++ b0).getLsbD i else b2.getLsbD (i - 16) :=
    BitVec.getLsbD_append
  have h1 : (b1 ++ b0).getLsbD i = if i < 8 then b0.getLsbD i else b1.getLsbD (i - 8) := BitVec.getLsbD_append
  rw [h, h2, h1]
  split_ifs <;> first | rfl | omega

theorem pair16_eq (b1 b0 : Byte) :
    (b0.setWidth 16 ||| (b1.setWidth 16 <<< 8) : U16) = b1 ++ b0 := by
  apply BitVec.eq_of_getLsbD_eq
  intro i hi
  rw [getLsbD_pair16]
  rcases Nat.lt_or_ge i 8 with h | h
  · simp [h, hi]
  · simp [show ¬ i < 8 by omega, hi, BitVec.getLsbD_of_ge b0 i h]

theorem quad32_eq (b3 b2 b1 b0 : Byte) :
    (b0.setWidth 32 ||| (b1.setWidth 32 <<< 8) ||| (b2.setWidth 32 <<< 16) ||| (b3.setWidth 32 <<< 24) : U32) =
      b3 ++ (b2 ++ (b1 ++ b0)) := by
  apply BitVec.eq_of_getLsbD_eq
  intro i hi
  rw [getLsbD_quad32]
  rcases Nat.lt_or_ge i 8 with h | h
  · simp [h, hi, show i < 16 by omega, show i < 24 by omega]
  · rcases Nat.lt_or_ge i 16 with h2 | h2
    · have : b0.getLsbD i = false := BitVec.getLsbD_of_ge _ _ h
      simp [show ¬ i < 8 by omega, h2, hi, show i < 24 by omega, this]
    · have e0 : b0.getLsbD i = false := BitVec.getLsbD_of_ge _ _ (by omega)
      have e1 : b1.getLsbD (i - 8) = false := BitVec.getLsbD_of_ge _ _ (by omega)
      rcases Nat.lt_or_ge i 24 with h3 | h3
      · simp [show ¬ i < 8 by omega, show ¬ i < 16 by omega, h3, hi, e0, e1]
      · have e2 : b2.getLsbD (i - 16) = false := BitVec.getLsbD_of_ge _ _ (by omega)
        simp [show ¬ i < 8 by omega, show ¬ i < 16 by omega, show ¬ i < 24 by omega, hi, e0, e1, e2]

/-- `LE16` at the start of two bytes. -/
theorem le16_cons (b0 b1 : Byte) (rest : Bytes) : le16 (b0 :: b1 :: rest) 0 = b1 ++ b0 := pair16_eq b1 b0
theorem le32_cons (b0 b1 b2 b3 : Byte) (rest : Bytes) :
    le32 (b0 :: b1 :: b2 :: b3 :: rest) 0 = b3 ++ (b2 ++ (b1 ++ b0)) := quad32_eq b3 b2 b1 b0
theorem le16_cons_succ (b : Byte) (bs : Bytes) (i : Nat) : le16 (b :: bs) (i + 1) = le16 bs i := rfl
theorem le32_cons_succ (b : Byte) (bs : Bytes) (i : Nat) : le32 (b :: bs) (i + 1) = le32 bs i := rfl

theorem encLE16_pair (b1 b0 : Byte) : encLE16 (b1 ++ b0) = [b0, b1] := by
  have h0 : (b1 ++ b0 : U16).extractLsb' 0 8 = b0 := by
    apply BitVec.eq_of_getLsbD_eq; intro i hi
    rw [BitVec.getLsbD_extractLsb', getLsbD_pair16]; simp [hi]
  have h1 : (b1 ++ b0 : U16).extractLsb' 8 8 = b1 := by
    apply BitVec.eq_of_getLsbD_eq; intro i hi
    rw [BitVec.getLsbD_extractLsb', getLsbD_pair16]; simp [hi]
  rw [encLE16, h0, h1]
theorem encLE32_quad (b3 b2 b1 b0 : Byte) : encLE32 (b3 ++ (b2 ++ (b1 ++ b0))) = [b0, b1, b2, b3] := by
  have h0 : (b3 ++ (b2 ++ (b1 ++ b0)) : U32).extractLsb' 0 8 = b0 := by
    apply BitVec.eq_of_getLsbD_eq; intro i hi
    rw [BitVec.getLsbD_extractLsb', getLsbD_quad32]; simp [hi]
  have h1 : (b3 ++ (b2 ++ (b1 ++ b0)) : U32).extractLsb' 8 8 = b1 := by
    apply BitVec.eq_of_getLsbD_eq; intro i hi
    rw [BitVec.getLsbD_extractLsb', getLsbD_quad32]; simp [hi, show 8 + i < 16 by omega]
  have h2 : (b3 ++ (b2 ++ (b1 ++ b0)) : U32).extractLsb' 16 8 = b2 := by
    apply BitVec.eq_of_getLsbD_eq; intro i hi
    rw [BitVec.getLsbD_extractLsb', getLsbD_quad32]; simp [hi, show ¬ 16 + i < 8 by omega, show 16 + i < 24 by omega]
  have h3 : (b3 ++ (b2 ++ (b1 ++ b0)) : U32).extractLsb' 24 8 = b3 := by
    apply BitVec.eq_of_getLsbD_eq; intro i hi
    rw [BitVec.getLsbD_extractLsb', getLsbD_quad32]; simp [hi, show ¬ 24 + i < 8 by omega, show ¬ 24 + i < 16 by omega]
  rw [encLE32, h0, h1, h2, h3]
theorem encBE16_reverse (v : U16) : encBE16 v = (encLE16 v).reverse := rfl
theorem encBE32_reverse (v : U32) : encBE32 v = (encLE32 v).reverse := rfl

/-! ### Encoding what was read -/

theorem le16_drop (b : Bytes) (i j : Nat) : le16 (b.drop i) j = le16 b (i + j) := by
  simp [le16, byteAt, List.getD_eq_getElem?_getD, Nat.add_assoc]

theorem le32_drop (b : Bytes) (i j : Nat) : le32 (b.drop i) j = le32 b (i + j) := by
  simp [le32, byteAt, List.getD_eq_getElem?_getD, Nat.add_assoc]

/-- The two bytes a 16-bit field was read from are its encoding. -/
theorem encLE16_le16 {b : Bytes} {i : Nat} (h : i + 2 ≤ b.length) : encLE16 (le16 b i) = (b.drop i).take 2 := by
  rw [← Nat.add_zero i, ← le16_drop]
  rcases hd : b.drop i with _ | ⟨x, _ | ⟨y, rest⟩⟩
  · have := congrArg List.length hd; simp at this; omega
  · have := congrArg List.length hd; simp at this; omega
  · rw [le16_cons, encLE16_pair]; rfl

/-- The four bytes a 32-bit field was read from are its encoding. -/
theorem encLE32_le32 {b : Bytes} {i : Nat} (h : i + 4 ≤ b.length) : encLE32 (le32 b i) = (b.drop i).take 4 := by
  rw [← Nat.add_zero i, ← le32_drop]
  rcases hd : b.drop i with _ | ⟨x, _ | ⟨y, _ | ⟨z, _ | ⟨w, rest⟩⟩⟩⟩
  · have := congrArg List.length hd; simp at this; omega
  · have := congrArg List.length hd; simp at this; omega
  · have := congrArg List.length hd; simp at this; omega
  · have := congrArg List.length hd; simp at this; omega
  · rw [le32_cons, encLE32_quad]; rfl

/-- A prefix and the piece behind it. -/
theorem take_append_piece (b : Bytes) (i n : Nat) : b.take i ++ (b.drop i).take n = b.take (i + n) := by
  rw [List.take_add]

end Sys2Proof
end

