-- ==== Sys2Proof/Laws/State.lean ====
section
/-! SUPPORT. One lemma per field and shared state update: what each update leaves in each field, so that no later proof unfolds a
record update. -/

namespace Sys2Proof.Machine

/-! ### `State.setCode` -/

@[simp] theorem setCode_cfg (k : Code) (s : State) : (State.setCode k s).cfg = s.cfg := rfl
@[simp] theorem setCode_crcAcc (k : Code) (s : State) : (State.setCode k s).crcAcc = s.crcAcc := rfl
@[simp] theorem setCode_mSeq (k : Code) (s : State) : (State.setCode k s).mSeq = s.mSeq := rfl
@[simp] theorem setCode_mFrom (k : Code) (s : State) : (State.setCode k s).mFrom = s.mFrom := rfl
@[simp] theorem setCode_mTo (k : Code) (s : State) : (State.setCode k s).mTo = s.mTo := rfl
@[simp] theorem setCode_mFn (k : Code) (s : State) : (State.setCode k s).mFn = s.mFn := rfl
@[simp] theorem setCode_mLen (k : Code) (s : State) : (State.setCode k s).mLen = s.mLen := rfl
@[simp] theorem setCode_mLenInv (k : Code) (s : State) : (State.setCode k s).mLenInv = s.mLenInv := rfl
@[simp] theorem setCode_mCks (k : Code) (s : State) : (State.setCode k s).mCks = s.mCks := rfl
@[simp] theorem setCode_pay (k : Code) (s : State) : (State.setCode k s).pay = s.pay := rfl
@[simp] theorem setCode_rxPhase (k : Code) (s : State) : (State.setCode k s).rxPhase = s.rxPhase := rfl
@[simp] theorem setCode_rxNeed (k : Code) (s : State) : (State.setCode k s).rxNeed = s.rxNeed := rfl
@[simp] theorem setCode_rxBuf (k : Code) (s : State) : (State.setCode k s).rxBuf = s.rxBuf := rfl
@[simp] theorem setCode_rxWarm (k : Code) (s : State) : (State.setCode k s).rxWarm = s.rxWarm := rfl
@[simp] theorem setCode_stCode (k : Code) (s : State) : (State.setCode k s).stCode = k := rfl
@[simp] theorem setCode_stInfo (k : Code) (s : State) : (State.setCode k s).stInfo = .none := rfl
@[simp] theorem setCode_stWire (k : Code) (s : State) : (State.setCode k s).stWire = s.stWire := rfl
@[simp] theorem setCode_stCalc (k : Code) (s : State) : (State.setCode k s).stCalc = s.stCalc := rfl
@[simp] theorem setCode_stSub (k : Code) (s : State) : (State.setCode k s).stSub = s.stSub := rfl
@[simp] theorem setCode_stTags (k : Code) (s : State) : (State.setCode k s).stTags = s.stTags := rfl
@[simp] theorem setCode_stPartial (k : Code) (s : State) : (State.setCode k s).stPartial = s.stPartial := rfl
@[simp] theorem setCode_stRefused (k : Code) (s : State) : (State.setCode k s).stRefused = s.stRefused := rfl
@[simp] theorem setCode_stHalt (k : Code) (s : State) : (State.setCode k s).stHalt = s.stHalt := rfl
@[simp] theorem setCode_txBusy (k : Code) (s : State) : (State.setCode k s).txBusy = s.txBusy := rfl
@[simp] theorem setCode_rxs (k : Code) (s : State) : (State.setCode k s).rxs = s.rxs := rfl
@[simp] theorem setCode_txs (k : Code) (s : State) : (State.setCode k s).txs = s.txs := rfl
@[simp] theorem setCode_hostCtx (k : Code) (s : State) : (State.setCode k s).hostCtx = s.hostCtx := rfl
@[simp] theorem setCode_port (k : Code) (s : State) : (State.setCode k s).port = s.port := rfl
@[simp] theorem setCode_freeIdx (k : Code) (s : State) : (State.setCode k s).freeIdx = s.freeIdx := rfl
@[simp] theorem setCode_ret (k : Code) (s : State) : (State.setCode k s).ret = s.ret := rfl

/-! ### `raiseError` -/

@[simp] theorem raiseError_cfg (k : Code) (info : Info) (s : State) : (raiseError k info s).cfg = s.cfg := rfl
@[simp] theorem raiseError_crcAcc (k : Code) (info : Info) (s : State) : (raiseError k info s).crcAcc = s.crcAcc := rfl
@[simp] theorem raiseError_mSeq (k : Code) (info : Info) (s : State) : (raiseError k info s).mSeq = s.mSeq := rfl
@[simp] theorem raiseError_mFrom (k : Code) (info : Info) (s : State) : (raiseError k info s).mFrom = s.mFrom := rfl
@[simp] theorem raiseError_mTo (k : Code) (info : Info) (s : State) : (raiseError k info s).mTo = s.mTo := rfl
@[simp] theorem raiseError_mFn (k : Code) (info : Info) (s : State) : (raiseError k info s).mFn = s.mFn := rfl
@[simp] theorem raiseError_mLen (k : Code) (info : Info) (s : State) : (raiseError k info s).mLen = s.mLen := rfl
@[simp] theorem raiseError_mLenInv (k : Code) (info : Info) (s : State) : (raiseError k info s).mLenInv = s.mLenInv := rfl
@[simp] theorem raiseError_mCks (k : Code) (info : Info) (s : State) : (raiseError k info s).mCks = s.mCks := rfl
@[simp] theorem raiseError_pay (k : Code) (info : Info) (s : State) : (raiseError k info s).pay = s.pay := rfl
@[simp] theorem raiseError_rxPhase (k : Code) (info : Info) (s : State) : (raiseError k info s).rxPhase = s.rxPhase := rfl
@[simp] theorem raiseError_rxNeed (k : Code) (info : Info) (s : State) : (raiseError k info s).rxNeed = s.rxNeed := rfl
@[simp] theorem raiseError_rxBuf (k : Code) (info : Info) (s : State) : (raiseError k info s).rxBuf = s.rxBuf := rfl
@[simp] theorem raiseError_rxWarm (k : Code) (info : Info) (s : State) : (raiseError k info s).rxWarm = s.rxWarm := rfl
@[simp] theorem raiseError_stCode (k : Code) (info : Info) (s : State) : (raiseError k info s).stCode = k := rfl
@[simp] theorem raiseError_stInfo (k : Code) (info : Info) (s : State) : (raiseError k info s).stInfo = info := rfl
@[simp] theorem raiseError_stWire (k : Code) (info : Info) (s : State) : (raiseError k info s).stWire = s.stWire := rfl
@[simp] theorem raiseError_stCalc (k : Code) (info : Info) (s : State) : (raiseError k info s).stCalc = s.stCalc := rfl
@[simp] theorem raiseError_stSub (k : Code) (info : Info) (s : State) : (raiseError k info s).stSub = s.stSub := rfl
@[simp] theorem raiseError_stTags (k : Code) (info : Info) (s : State) : (raiseError k info s).stTags = s.stTags := rfl
@[simp] theorem raiseError_stPartial (k : Code) (info : Info) (s : State) : (raiseError k info s).stPartial = s.stPartial := rfl
@[simp] theorem raiseError_stRefused (k : Code) (info : Info) (s : State) : (raiseError k info s).stRefused = (s.stRefused || k.isRefusal) := rfl
@[simp] theorem raiseError_stHalt (k : Code) (info : Info) (s : State) : (raiseError k info s).stHalt = (s.stHalt || (k.isError && s.cfg.haltOnError)) := rfl
@[simp] theorem raiseError_txBusy (k : Code) (info : Info) (s : State) : (raiseError k info s).txBusy = s.txBusy := rfl
@[simp] theorem raiseError_rxs (k : Code) (info : Info) (s : State) : (raiseError k info s).rxs = s.rxs := rfl
@[simp] theorem raiseError_txs (k : Code) (info : Info) (s : State) : (raiseError k info s).txs = s.txs := rfl
@[simp] theorem raiseError_hostCtx (k : Code) (info : Info) (s : State) : (raiseError k info s).hostCtx = s.hostCtx := rfl
@[simp] theorem raiseError_port (k : Code) (info : Info) (s : State) : (raiseError k info s).port = s.port := rfl
@[simp] theorem raiseError_freeIdx (k : Code) (info : Info) (s : State) : (raiseError k info s).freeIdx = s.freeIdx := rfl
@[simp] theorem raiseError_ret (k : Code) (info : Info) (s : State) : (raiseError k info s).ret = .none := rfl

/-! ### `voidMessage` -/

@[simp] theorem voidMessage_cfg (s : State) : (voidMessage s).cfg = s.cfg := rfl
@[simp] theorem voidMessage_crcAcc (s : State) : (voidMessage s).crcAcc = s.crcAcc := rfl
@[simp] theorem voidMessage_rxPhase (s : State) : (voidMessage s).rxPhase = s.rxPhase := rfl
@[simp] theorem voidMessage_rxNeed (s : State) : (voidMessage s).rxNeed = s.rxNeed := rfl
@[simp] theorem voidMessage_rxBuf (s : State) : (voidMessage s).rxBuf = s.rxBuf := rfl
@[simp] theorem voidMessage_rxWarm (s : State) : (voidMessage s).rxWarm = s.rxWarm := rfl
@[simp] theorem voidMessage_stCode (s : State) : (voidMessage s).stCode = s.stCode := rfl
@[simp] theorem voidMessage_stInfo (s : State) : (voidMessage s).stInfo = s.stInfo := rfl
@[simp] theorem voidMessage_stWire (s : State) : (voidMessage s).stWire = s.stWire := rfl
@[simp] theorem voidMessage_stCalc (s : State) : (voidMessage s).stCalc = s.stCalc := rfl
@[simp] theorem voidMessage_stSub (s : State) : (voidMessage s).stSub = s.stSub := rfl
@[simp] theorem voidMessage_stTags (s : State) : (voidMessage s).stTags = s.stTags := rfl
@[simp] theorem voidMessage_stPartial (s : State) : (voidMessage s).stPartial = s.stPartial := rfl
@[simp] theorem voidMessage_stRefused (s : State) : (voidMessage s).stRefused = s.stRefused := rfl
@[simp] theorem voidMessage_stHalt (s : State) : (voidMessage s).stHalt = s.stHalt := rfl
@[simp] theorem voidMessage_txBusy (s : State) : (voidMessage s).txBusy = s.txBusy := rfl
@[simp] theorem voidMessage_rxs (s : State) : (voidMessage s).rxs = s.rxs := rfl
@[simp] theorem voidMessage_txs (s : State) : (voidMessage s).txs = s.txs := rfl
@[simp] theorem voidMessage_hostCtx (s : State) : (voidMessage s).hostCtx = s.hostCtx := rfl
@[simp] theorem voidMessage_port (s : State) : (voidMessage s).port = s.port := rfl
@[simp] theorem voidMessage_ret (s : State) : (voidMessage s).ret = s.ret := rfl
@[simp] theorem voidMessage_freeIdx (s : State) : (voidMessage s).freeIdx = s.freeIdx + 1 := rfl
theorem voidMessage_pay_le (s : State) : (voidMessage s).pay.length ≤ 65535 := List.length_take_le _ _

/-! ### `clearMessage` -/

@[simp] theorem clearMessage_cfg (s : State) : (clearMessage s).cfg = s.cfg := rfl
@[simp] theorem clearMessage_crcAcc (s : State) : (clearMessage s).crcAcc = s.crcAcc := rfl
@[simp] theorem clearMessage_mSeq (s : State) : (clearMessage s).mSeq = 0 := rfl
@[simp] theorem clearMessage_mFrom (s : State) : (clearMessage s).mFrom = 0 := rfl
@[simp] theorem clearMessage_mTo (s : State) : (clearMessage s).mTo = 0 := rfl
@[simp] theorem clearMessage_mFn (s : State) : (clearMessage s).mFn = 0 := rfl
@[simp] theorem clearMessage_mLen (s : State) : (clearMessage s).mLen = 0 := rfl
@[simp] theorem clearMessage_mLenInv (s : State) : (clearMessage s).mLenInv = 0 := rfl
@[simp] theorem clearMessage_mCks (s : State) : (clearMessage s).mCks = 0 := rfl
@[simp] theorem clearMessage_pay (s : State) : (clearMessage s).pay = [] := rfl
@[simp] theorem clearMessage_rxPhase (s : State) : (clearMessage s).rxPhase = s.rxPhase := rfl
@[simp] theorem clearMessage_rxNeed (s : State) : (clearMessage s).rxNeed = s.rxNeed := rfl
@[simp] theorem clearMessage_rxBuf (s : State) : (clearMessage s).rxBuf = s.rxBuf := rfl
@[simp] theorem clearMessage_rxWarm (s : State) : (clearMessage s).rxWarm = s.rxWarm := rfl
@[simp] theorem clearMessage_stCode (s : State) : (clearMessage s).stCode = s.stCode := rfl
@[simp] theorem clearMessage_stInfo (s : State) : (clearMessage s).stInfo = s.stInfo := rfl
@[simp] theorem clearMessage_stWire (s : State) : (clearMessage s).stWire = s.stWire := rfl
@[simp] theorem clearMessage_stCalc (s : State) : (clearMessage s).stCalc = s.stCalc := rfl
@[simp] theorem clearMessage_stSub (s : State) : (clearMessage s).stSub = s.stSub := rfl
@[simp] theorem clearMessage_stTags (s : State) : (clearMessage s).stTags = s.stTags := rfl
@[simp] theorem clearMessage_stPartial (s : State) : (clearMessage s).stPartial = s.stPartial := rfl
@[simp] theorem clearMessage_stRefused (s : State) : (clearMessage s).stRefused = s.stRefused := rfl
@[simp] theorem clearMessage_stHalt (s : State) : (clearMessage s).stHalt = s.stHalt := rfl
@[simp] theorem clearMessage_txBusy (s : State) : (clearMessage s).txBusy = s.txBusy := rfl
@[simp] theorem clearMessage_rxs (s : State) : (clearMessage s).rxs = s.rxs := rfl
@[simp] theorem clearMessage_txs (s : State) : (clearMessage s).txs = s.txs := rfl
@[simp] theorem clearMessage_hostCtx (s : State) : (clearMessage s).hostCtx = s.hostCtx := rfl
@[simp] theorem clearMessage_port (s : State) : (clearMessage s).port = s.port := rfl
@[simp] theorem clearMessage_freeIdx (s : State) : (clearMessage s).freeIdx = s.freeIdx := rfl
@[simp] theorem clearMessage_ret (s : State) : (clearMessage s).ret = s.ret := rfl

/-! ### `streamWrite` -/

@[simp] theorem streamWrite_cfg (b : Bytes) (s : State) : (streamWrite b s).cfg = s.cfg := rfl
@[simp] theorem streamWrite_crcAcc (b : Bytes) (s : State) : (streamWrite b s).crcAcc = s.crcAcc := rfl
@[simp] theorem streamWrite_mSeq (b : Bytes) (s : State) : (streamWrite b s).mSeq = s.mSeq := rfl
@[simp] theorem streamWrite_mFrom (b : Bytes) (s : State) : (streamWrite b s).mFrom = s.mFrom := rfl
@[simp] theorem streamWrite_mTo (b : Bytes) (s : State) : (streamWrite b s).mTo = s.mTo := rfl
@[simp] theorem streamWrite_mFn (b : Bytes) (s : State) : (streamWrite b s).mFn = s.mFn := rfl
@[simp] theorem streamWrite_mLen (b : Bytes) (s : State) : (streamWrite b s).mLen = s.mLen := rfl
@[simp] theorem streamWrite_mLenInv (b : Bytes) (s : State) : (streamWrite b s).mLenInv = s.mLenInv := rfl
@[simp] theorem streamWrite_mCks (b : Bytes) (s : State) : (streamWrite b s).mCks = s.mCks := rfl
@[simp] theorem streamWrite_pay (b : Bytes) (s : State) : (streamWrite b s).pay = s.pay := rfl
@[simp] theorem streamWrite_rxPhase (b : Bytes) (s : State) : (streamWrite b s).rxPhase = s.rxPhase := rfl
@[simp] theorem streamWrite_rxNeed (b : Bytes) (s : State) : (streamWrite b s).rxNeed = s.rxNeed := rfl
@[simp] theorem streamWrite_rxBuf (b : Bytes) (s : State) : (streamWrite b s).rxBuf = s.rxBuf := rfl
@[simp] theorem streamWrite_rxWarm (b : Bytes) (s : State) : (streamWrite b s).rxWarm = s.rxWarm := rfl
@[simp] theorem streamWrite_stCode (b : Bytes) (s : State) : (streamWrite b s).stCode = s.stCode := rfl
@[simp] theorem streamWrite_stInfo (b : Bytes) (s : State) : (streamWrite b s).stInfo = s.stInfo := rfl
@[simp] theorem streamWrite_stWire (b : Bytes) (s : State) : (streamWrite b s).stWire = s.stWire := rfl
@[simp] theorem streamWrite_stCalc (b : Bytes) (s : State) : (streamWrite b s).stCalc = s.stCalc := rfl
@[simp] theorem streamWrite_stSub (b : Bytes) (s : State) : (streamWrite b s).stSub = s.stSub := rfl
@[simp] theorem streamWrite_stTags (b : Bytes) (s : State) : (streamWrite b s).stTags = s.stTags := rfl
@[simp] theorem streamWrite_stPartial (b : Bytes) (s : State) : (streamWrite b s).stPartial = s.stPartial := rfl
@[simp] theorem streamWrite_stRefused (b : Bytes) (s : State) : (streamWrite b s).stRefused = s.stRefused := rfl
@[simp] theorem streamWrite_stHalt (b : Bytes) (s : State) : (streamWrite b s).stHalt = s.stHalt := rfl
@[simp] theorem streamWrite_txBusy (b : Bytes) (s : State) : (streamWrite b s).txBusy = s.txBusy := rfl
@[simp] theorem streamWrite_rxs (b : Bytes) (s : State) : (streamWrite b s).rxs = s.rxs := rfl
@[simp] theorem streamWrite_txs (b : Bytes) (s : State) : (streamWrite b s).txs = s.txs ++ b := rfl
@[simp] theorem streamWrite_hostCtx (b : Bytes) (s : State) : (streamWrite b s).hostCtx = s.hostCtx := rfl
@[simp] theorem streamWrite_port (b : Bytes) (s : State) : (streamWrite b s).port = s.port := rfl
@[simp] theorem streamWrite_freeIdx (b : Bytes) (s : State) : (streamWrite b s).freeIdx = s.freeIdx := rfl
@[simp] theorem streamWrite_ret (b : Bytes) (s : State) : (streamWrite b s).ret = s.ret := rfl

/-! ### `skipRecord` -/

@[simp] theorem skipRecord_cfg (tag : U16) (s : State) : (skipRecord tag s).cfg = s.cfg := rfl
@[simp] theorem skipRecord_crcAcc (tag : U16) (s : State) : (skipRecord tag s).crcAcc = s.crcAcc := rfl
@[simp] theorem skipRecord_mSeq (tag : U16) (s : State) : (skipRecord tag s).mSeq = s.mSeq := rfl
@[simp] theorem skipRecord_mFrom (tag : U16) (s : State) : (skipRecord tag s).mFrom = s.mFrom := rfl
@[simp] theorem skipRecord_mTo (tag : U16) (s : State) : (skipRecord tag s).mTo = s.mTo := rfl
@[simp] theorem skipRecord_mFn (tag : U16) (s : State) : (skipRecord tag s).mFn = s.mFn := rfl
@[simp] theorem skipRecord_mLen (tag : U16) (s : State) : (skipRecord tag s).mLen = s.mLen := rfl
@[simp] theorem skipRecord_mLenInv (tag : U16) (s : State) : (skipRecord tag s).mLenInv = s.mLenInv := rfl
@[simp] theorem skipRecord_mCks (tag : U16) (s : State) : (skipRecord tag s).mCks = s.mCks := rfl
@[simp] theorem skipRecord_pay (tag : U16) (s : State) : (skipRecord tag s).pay = s.pay := rfl
@[simp] theorem skipRecord_rxPhase (tag : U16) (s : State) : (skipRecord tag s).rxPhase = s.rxPhase := rfl
@[simp] theorem skipRecord_rxNeed (tag : U16) (s : State) : (skipRecord tag s).rxNeed = s.rxNeed := rfl
@[simp] theorem skipRecord_rxBuf (tag : U16) (s : State) : (skipRecord tag s).rxBuf = s.rxBuf := rfl
@[simp] theorem skipRecord_rxWarm (tag : U16) (s : State) : (skipRecord tag s).rxWarm = s.rxWarm := rfl
@[simp] theorem skipRecord_stCode (tag : U16) (s : State) : (skipRecord tag s).stCode = s.stCode := rfl
@[simp] theorem skipRecord_stInfo (tag : U16) (s : State) : (skipRecord tag s).stInfo = s.stInfo := rfl
@[simp] theorem skipRecord_stWire (tag : U16) (s : State) : (skipRecord tag s).stWire = s.stWire := rfl
@[simp] theorem skipRecord_stCalc (tag : U16) (s : State) : (skipRecord tag s).stCalc = s.stCalc := rfl
@[simp] theorem skipRecord_stSub (tag : U16) (s : State) : (skipRecord tag s).stSub = s.stSub + 1 := rfl
@[simp] theorem skipRecord_stTags (tag : U16) (s : State) : (skipRecord tag s).stTags = s.stTags ++ [tag] := rfl
@[simp] theorem skipRecord_stPartial (tag : U16) (s : State) : (skipRecord tag s).stPartial = s.stPartial := rfl
@[simp] theorem skipRecord_stRefused (tag : U16) (s : State) : (skipRecord tag s).stRefused = s.stRefused := rfl
@[simp] theorem skipRecord_stHalt (tag : U16) (s : State) : (skipRecord tag s).stHalt = s.stHalt := rfl
@[simp] theorem skipRecord_txBusy (tag : U16) (s : State) : (skipRecord tag s).txBusy = s.txBusy := rfl
@[simp] theorem skipRecord_rxs (tag : U16) (s : State) : (skipRecord tag s).rxs = s.rxs := rfl
@[simp] theorem skipRecord_txs (tag : U16) (s : State) : (skipRecord tag s).txs = s.txs := rfl
@[simp] theorem skipRecord_hostCtx (tag : U16) (s : State) : (skipRecord tag s).hostCtx = s.hostCtx := rfl
@[simp] theorem skipRecord_port (tag : U16) (s : State) : (skipRecord tag s).port = s.port := rfl
@[simp] theorem skipRecord_freeIdx (tag : U16) (s : State) : (skipRecord tag s).freeIdx = s.freeIdx := rfl
@[simp] theorem skipRecord_ret (tag : U16) (s : State) : (skipRecord tag s).ret = s.ret := rfl

/-! ### `clearSkips` -/

@[simp] theorem clearSkips_cfg (s : State) : (clearSkips s).cfg = s.cfg := rfl
@[simp] theorem clearSkips_crcAcc (s : State) : (clearSkips s).crcAcc = s.crcAcc := rfl
@[simp] theorem clearSkips_mSeq (s : State) : (clearSkips s).mSeq = s.mSeq := rfl
@[simp] theorem clearSkips_mFrom (s : State) : (clearSkips s).mFrom = s.mFrom := rfl
@[simp] theorem clearSkips_mTo (s : State) : (clearSkips s).mTo = s.mTo := rfl
@[simp] theorem clearSkips_mFn (s : State) : (clearSkips s).mFn = s.mFn := rfl
@[simp] theorem clearSkips_mLen (s : State) : (clearSkips s).mLen = s.mLen := rfl
@[simp] theorem clearSkips_mLenInv (s : State) : (clearSkips s).mLenInv = s.mLenInv := rfl
@[simp] theorem clearSkips_mCks (s : State) : (clearSkips s).mCks = s.mCks := rfl
@[simp] theorem clearSkips_pay (s : State) : (clearSkips s).pay = s.pay := rfl
@[simp] theorem clearSkips_rxPhase (s : State) : (clearSkips s).rxPhase = s.rxPhase := rfl
@[simp] theorem clearSkips_rxNeed (s : State) : (clearSkips s).rxNeed = s.rxNeed := rfl
@[simp] theorem clearSkips_rxBuf (s : State) : (clearSkips s).rxBuf = s.rxBuf := rfl
@[simp] theorem clearSkips_rxWarm (s : State) : (clearSkips s).rxWarm = s.rxWarm := rfl
@[simp] theorem clearSkips_stCode (s : State) : (clearSkips s).stCode = s.stCode := rfl
@[simp] theorem clearSkips_stInfo (s : State) : (clearSkips s).stInfo = s.stInfo := rfl
@[simp] theorem clearSkips_stWire (s : State) : (clearSkips s).stWire = s.stWire := rfl
@[simp] theorem clearSkips_stCalc (s : State) : (clearSkips s).stCalc = s.stCalc := rfl
@[simp] theorem clearSkips_stSub (s : State) : (clearSkips s).stSub = 0 := rfl
@[simp] theorem clearSkips_stTags (s : State) : (clearSkips s).stTags = [] := rfl
@[simp] theorem clearSkips_stPartial (s : State) : (clearSkips s).stPartial = s.stPartial := rfl
@[simp] theorem clearSkips_stRefused (s : State) : (clearSkips s).stRefused = s.stRefused := rfl
@[simp] theorem clearSkips_stHalt (s : State) : (clearSkips s).stHalt = s.stHalt := rfl
@[simp] theorem clearSkips_txBusy (s : State) : (clearSkips s).txBusy = s.txBusy := rfl
@[simp] theorem clearSkips_rxs (s : State) : (clearSkips s).rxs = s.rxs := rfl
@[simp] theorem clearSkips_txs (s : State) : (clearSkips s).txs = s.txs := rfl
@[simp] theorem clearSkips_hostCtx (s : State) : (clearSkips s).hostCtx = s.hostCtx := rfl
@[simp] theorem clearSkips_port (s : State) : (clearSkips s).port = s.port := rfl
@[simp] theorem clearSkips_freeIdx (s : State) : (clearSkips s).freeIdx = s.freeIdx := rfl
@[simp] theorem clearSkips_ret (s : State) : (clearSkips s).ret = s.ret := rfl

/-! ### `crcFeed` -/

@[simp] theorem crcFeed_cfg (b : Byte) (s : State) : (crcFeed b s).cfg = s.cfg := rfl
@[simp] theorem crcFeed_crcAcc (b : Byte) (s : State) : (crcFeed b s).crcAcc = crcUpdate s.crcAcc b := rfl
@[simp] theorem crcFeed_mSeq (b : Byte) (s : State) : (crcFeed b s).mSeq = s.mSeq := rfl
@[simp] theorem crcFeed_mFrom (b : Byte) (s : State) : (crcFeed b s).mFrom = s.mFrom := rfl
@[simp] theorem crcFeed_mTo (b : Byte) (s : State) : (crcFeed b s).mTo = s.mTo := rfl
@[simp] theorem crcFeed_mFn (b : Byte) (s : State) : (crcFeed b s).mFn = s.mFn := rfl
@[simp] theorem crcFeed_mLen (b : Byte) (s : State) : (crcFeed b s).mLen = s.mLen := rfl
@[simp] theorem crcFeed_mLenInv (b : Byte) (s : State) : (crcFeed b s).mLenInv = s.mLenInv := rfl
@[simp] theorem crcFeed_mCks (b : Byte) (s : State) : (crcFeed b s).mCks = s.mCks := rfl
@[simp] theorem crcFeed_pay (b : Byte) (s : State) : (crcFeed b s).pay = s.pay := rfl
@[simp] theorem crcFeed_rxPhase (b : Byte) (s : State) : (crcFeed b s).rxPhase = s.rxPhase := rfl
@[simp] theorem crcFeed_rxNeed (b : Byte) (s : State) : (crcFeed b s).rxNeed = s.rxNeed := rfl
@[simp] theorem crcFeed_rxBuf (b : Byte) (s : State) : (crcFeed b s).rxBuf = s.rxBuf := rfl
@[simp] theorem crcFeed_rxWarm (b : Byte) (s : State) : (crcFeed b s).rxWarm = s.rxWarm := rfl
@[simp] theorem crcFeed_stCode (b : Byte) (s : State) : (crcFeed b s).stCode = s.stCode := rfl
@[simp] theorem crcFeed_stInfo (b : Byte) (s : State) : (crcFeed b s).stInfo = s.stInfo := rfl
@[simp] theorem crcFeed_stWire (b : Byte) (s : State) : (crcFeed b s).stWire = s.stWire := rfl
@[simp] theorem crcFeed_stCalc (b : Byte) (s : State) : (crcFeed b s).stCalc = s.stCalc := rfl
@[simp] theorem crcFeed_stSub (b : Byte) (s : State) : (crcFeed b s).stSub = s.stSub := rfl
@[simp] theorem crcFeed_stTags (b : Byte) (s : State) : (crcFeed b s).stTags = s.stTags := rfl
@[simp] theorem crcFeed_stPartial (b : Byte) (s : State) : (crcFeed b s).stPartial = s.stPartial := rfl
@[simp] theorem crcFeed_stRefused (b : Byte) (s : State) : (crcFeed b s).stRefused = s.stRefused := rfl
@[simp] theorem crcFeed_stHalt (b : Byte) (s : State) : (crcFeed b s).stHalt = s.stHalt := rfl
@[simp] theorem crcFeed_txBusy (b : Byte) (s : State) : (crcFeed b s).txBusy = s.txBusy := rfl
@[simp] theorem crcFeed_rxs (b : Byte) (s : State) : (crcFeed b s).rxs = s.rxs := rfl
@[simp] theorem crcFeed_txs (b : Byte) (s : State) : (crcFeed b s).txs = s.txs := rfl
@[simp] theorem crcFeed_hostCtx (b : Byte) (s : State) : (crcFeed b s).hostCtx = s.hostCtx := rfl
@[simp] theorem crcFeed_port (b : Byte) (s : State) : (crcFeed b s).port = s.port := rfl
@[simp] theorem crcFeed_freeIdx (b : Byte) (s : State) : (crcFeed b s).freeIdx = s.freeIdx := rfl
@[simp] theorem crcFeed_ret (b : Byte) (s : State) : (crcFeed b s).ret = s.ret := rfl

/-! ### `State.request` -/

@[simp] theorem request_cfg (c : Cmd) (s : State) : (State.request c s).cfg = s.cfg := rfl
@[simp] theorem request_crcAcc (c : Cmd) (s : State) : (State.request c s).crcAcc = s.crcAcc := rfl
@[simp] theorem request_mSeq (c : Cmd) (s : State) : (State.request c s).mSeq = s.mSeq := rfl
@[simp] theorem request_mFrom (c : Cmd) (s : State) : (State.request c s).mFrom = s.mFrom := rfl
@[simp] theorem request_mTo (c : Cmd) (s : State) : (State.request c s).mTo = s.mTo := rfl
@[simp] theorem request_mFn (c : Cmd) (s : State) : (State.request c s).mFn = s.mFn := rfl
@[simp] theorem request_mLen (c : Cmd) (s : State) : (State.request c s).mLen = s.mLen := rfl
@[simp] theorem request_mLenInv (c : Cmd) (s : State) : (State.request c s).mLenInv = s.mLenInv := rfl
@[simp] theorem request_mCks (c : Cmd) (s : State) : (State.request c s).mCks = s.mCks := rfl
@[simp] theorem request_pay (c : Cmd) (s : State) : (State.request c s).pay = s.pay := rfl
@[simp] theorem request_rxPhase (c : Cmd) (s : State) : (State.request c s).rxPhase = s.rxPhase := rfl
@[simp] theorem request_rxNeed (c : Cmd) (s : State) : (State.request c s).rxNeed = s.rxNeed := rfl
@[simp] theorem request_rxBuf (c : Cmd) (s : State) : (State.request c s).rxBuf = s.rxBuf := rfl
@[simp] theorem request_rxWarm (c : Cmd) (s : State) : (State.request c s).rxWarm = s.rxWarm := rfl
@[simp] theorem request_stCode (c : Cmd) (s : State) : (State.request c s).stCode = s.stCode := rfl
@[simp] theorem request_stInfo (c : Cmd) (s : State) : (State.request c s).stInfo = s.stInfo := rfl
@[simp] theorem request_stWire (c : Cmd) (s : State) : (State.request c s).stWire = s.stWire := rfl
@[simp] theorem request_stCalc (c : Cmd) (s : State) : (State.request c s).stCalc = s.stCalc := rfl
@[simp] theorem request_stSub (c : Cmd) (s : State) : (State.request c s).stSub = s.stSub := rfl
@[simp] theorem request_stTags (c : Cmd) (s : State) : (State.request c s).stTags = s.stTags := rfl
@[simp] theorem request_stPartial (c : Cmd) (s : State) : (State.request c s).stPartial = s.stPartial := rfl
@[simp] theorem request_stRefused (c : Cmd) (s : State) : (State.request c s).stRefused = s.stRefused := rfl
@[simp] theorem request_stHalt (c : Cmd) (s : State) : (State.request c s).stHalt = s.stHalt := rfl
@[simp] theorem request_txBusy (c : Cmd) (s : State) : (State.request c s).txBusy = s.txBusy := rfl
@[simp] theorem request_rxs (c : Cmd) (s : State) : (State.request c s).rxs = s.rxs := rfl
@[simp] theorem request_txs (c : Cmd) (s : State) : (State.request c s).txs = s.txs := rfl
@[simp] theorem request_hostCtx (c : Cmd) (s : State) : (State.request c s).hostCtx = s.hostCtx := rfl
@[simp] theorem request_port (c : Cmd) (s : State) : (State.request c s).port = c :: s.port := rfl
@[simp] theorem request_freeIdx (c : Cmd) (s : State) : (State.request c s).freeIdx = s.freeIdx := rfl
@[simp] theorem request_ret (c : Cmd) (s : State) : (State.request c s).ret = s.ret := rfl

end Sys2Proof.Machine
end

