-- ==== Sys2Proof/Laws/Crc.lean ====
section
/-! SUPPORT. The CRC unit: what a whole run leaves in the accumulator, and the checksum as a fold. -/

namespace Sys2Proof.Machine

/-- A fold of CRC.STEP writes the accumulator alone. -/
theorem crcFeed_foldl (bs : Bytes) (s : State) :
    bs.foldl (fun t b => crcFeed b t) s = { s with crcAcc := bs.foldl crcUpdate s.crcAcc } := by
  induction bs generalizing s with
  | nil => rfl
  | cons b rest ih => rw [List.foldl_cons, ih]; rfl

/-- CRC.SUM writes the accumulator alone, with the checksum of the sequence. -/
theorem crcRun_eq (bs : Bytes) (s : State) : crcRun bs s = { s with crcAcc := crcOf bs } := by
  rw [crcRun, crcFeed_foldl]; rfl

@[simp] theorem crcRun_crcAcc (bs : Bytes) (s : State) : (crcRun bs s).crcAcc = crcOf bs := by rw [crcRun_eq]

@[simp] theorem crcOf_nil : crcOf [] = 0x5A5A := rfl

theorem crcOf_append (a b : Bytes) : crcOf (a ++ b) = b.foldl crcUpdate (crcOf a) := by
  rw [crcOf, List.foldl_append]; rfl

@[simp] theorem crcOf_snoc (a : Bytes) (b : Byte) : crcOf (a ++ [b]) = crcUpdate (crcOf a) b := by
  rw [crcOf_append]; rfl

/-- The low byte of an accumulator xor a widened byte: the table index of R124. -/
theorem crcIndex (hi lo b : Byte) : ((hi ++ lo : U16) ^^^ b.setWidth 16).extractLsb' 0 8 = lo ^^^ b := by
  apply BitVec.eq_of_getLsbD_eq
  intro i h
  rw [BitVec.getLsbD_extractLsb', BitVec.getLsbD_xor, getLsbD_pair16]
  simp [h, show i < 16 by omega]

/-- The accumulator shifted right by eight is its high byte, zero-extended (R124). -/
theorem crcShiftRight (hi lo : Byte) : (hi ++ lo : U16) >>> 8 = (0#8 ++ hi : U16) := by
  apply BitVec.eq_of_getLsbD_eq
  intro i h
  rw [BitVec.getLsbD_ushiftRight, getLsbD_pair16, getLsbD_pair16]
  rcases Nat.lt_or_ge i 8 with h8 | h8
  · simp [h8]
  · simp [show ¬ i < 8 by omega, BitVec.getLsbD_of_ge hi i h8]

/-- The per-byte update on an accumulator given by its two bytes (R124). -/
theorem crcUpdate_bytes (hi lo b : Byte) : crcUpdate (hi ++ lo) b = crcT (lo ^^^ b) ^^^ (0#8 ++ hi) := by
  rw [crcUpdate, crcIndex, crcShiftRight]

end Sys2Proof.Machine
end

