-- ==== Sys2Proof/Laws/Decode.lean ====
section
/-! SUPPORT. The decoder's parts read back what the encoder's parts wrote: one object without trailing bytes, a message, the fields of
a sub-record. -/

namespace Sys2Proof

/-- One object and nothing behind it. -/
theorem exactly_ok {r : Except DecodeError (Instr × Bytes)} {i : Instr} (h : exactly r = .ok i) : r = .ok (i, []) := by
  unfold exactly at h
  split at h <;> simp_all

theorem payloadFits_iff (pay : Bytes) : payloadFits pay = true ↔ pay.length ≤ 65535 :=
  ⟨of_decide_eq_true, decide_eq_true⟩

theorem encodeSub_length (tag : U16) (devid : U32) (sub : Bytes) : (encodeSub tag devid sub).length = 8 + sub.length := by
  simp [encodeSub]; omega

/-- The fields of a sub-record, whatever follows it (R97). -/
theorem encodeSub_fields (tag : U16) (devid : U32) (sub rest : Bytes) (h : sub.length ≤ 65535) :
    le16 (encodeSub tag devid sub ++ rest) 0 = tag ∧ le32 (encodeSub tag devid sub ++ rest) 2 = devid ∧
      (le16 (encodeSub tag devid sub ++ rest) 6).toNat = sub.length ∧
      ((encodeSub tag devid sub ++ rest).drop 8).take sub.length = sub ∧
      (encodeSub tag devid sub ++ rest).drop (8 + sub.length) = rest := by
  refine ⟨by simp [encodeSub], ?_, ?_, ?_, List.drop_left' (encodeSub_length _ _ _)⟩
  · have := le32_append_right (encLE16 tag) (encLE32 devid ++ (encLE16 (BitVec.ofNat 16 sub.length) ++ sub ++ rest)) 0
    simpa [encodeSub, List.append_assoc] using this
  · have := le16_append_right (encLE16 tag ++ encLE32 devid) (encLE16 (BitVec.ofNat 16 sub.length) ++ (sub ++ rest)) 0
    have e : le16 (encodeSub tag devid sub ++ rest) 6 = BitVec.ofNat 16 sub.length := by
      simpa [encodeSub, List.append_assoc] using this
    rw [e]; simp; omega
  · have e : encodeSub tag devid sub ++ rest =
        (encLE16 tag ++ encLE32 devid ++ encLE16 (BitVec.ofNat 16 sub.length)) ++ (sub ++ rest) := by simp [encodeSub]
    rw [e, List.drop_left' (by simp)]; simp

/-- The row of an encoded sub-record, and the bytes behind it (R97). -/
theorem decodeSub_encodeSub (tag : U16) (devid : U32) (sub rest : Bytes) (h : sub.length ≤ 65535) :
    decodeSub (encodeSub tag devid sub ++ rest) = .ok (subRow tag devid sub, rest) := by
  obtain ⟨f0, f2, f6, fs, fr⟩ := encodeSub_fields tag devid sub rest h
  unfold decodeSub
  rw [if_neg (by rw [List.length_append, encodeSub_length, subHdrLen]; omega),
    if_neg (by rw [List.length_append, encodeSub_length, subHdrLen, f6]; omega)]
  simp only [subHdrLen, f0, f2, f6, fs, fr]

/-- The row of an encoded message (R101 level 2). -/
theorem decodeMessage_encode (cfg : Cfg) (f : U16) (pay : Bytes) (ctx : Option U16) (h : pay.length ≤ 65535) :
    decodeMessage cfg (encLE16 f ++ pay) ctx = .ok (messageRow (cfg.classOf f) f pay ctx) := by
  have e : le16 (encLE16 f ++ pay) 0 = f := by simp
  have ed : (encLE16 f ++ pay).drop 2 = pay := rfl
  unfold decodeMessage
  rw [e, ed, if_neg (by simp; omega), if_neg (by rw [maxPayload]; omega)]

end Sys2Proof
end

