-- ==== Sys2Proof/Laws/Ops.lean ====
section
/-! SUPPORT. One lemma per shared operation: what it can answer. -/

namespace Sys2Proof.Machine

/-! ### Pipelines and handing over -/

@[simp] theorem bind_ok {α β : Type} (a : α) (s : State) (f : α → State → Res β) : (Res.ok a s).bind f = f a s := rfl
@[simp] theorem bind_raised {α β : Type} (s : State) (f : α → State → Res β) : (Res.raised s : Res α).bind f = .raised s := rfl
@[simp] theorem map_ok {α β : Type} (f : α → β) (a : α) (s : State) : (Res.ok a s).map f = .ok (f a) s := rfl
@[simp] theorem map_raised {α β : Type} (f : α → β) (s : State) : (Res.raised s : Res α).map f = .raised s := rfl
@[simp] theorem handOver_ok (v : Ret) (s : State) : handOver (.ok v s) = .next { s with ret := v } := rfl
@[simp] theorem handOver_raised (s : State) : handOver (.raised s) = .next s := rfl

/-- A hand-over is always a next state: the operation's own with its value in `ret`, or the raised state. -/
theorem handOver_eq_next {r : Res Ret} {t : State} (h : handOver r = .next t) :
    (∃ v s, r = .ok v s ∧ t = { s with ret := v }) ∨ r = .raised t := by
  cases r with
  | ok v s => exact .inl ⟨v, s, rfl, by simpa using h.symm⟩
  | raised s => exact .inr (by simpa using h)

theorem handOver_next (r : Res Ret) : ∃ t, handOver r = .next t := by
  cases r with
  | ok v s => exact ⟨_, rfl⟩
  | raised s => exact ⟨_, rfl⟩

/-! ### Streams -/

/-- One read: a byte, a held `Empty` of a live transport, or the end of the stream; the state after it differs in `RXS` alone. -/
theorem readOne_cases (s : State) :
    (∃ b rest, s.rxs = .byte b :: rest ∧ readOne s = (.byte b, { s with rxs := rest })) ∨
    (∃ rest, s.cfg.live = true ∧ (s.rxs = .empty :: rest ∨ (s.rxs = [] ∧ rest = [])) ∧
      readOne s = (.hold, { s with rxs := rest })) ∨
    (∃ rest, (s.rxs = .fault :: rest ∨
        (s.cfg.live = false ∧ (s.rxs = .empty :: rest ∨ (s.rxs = [] ∧ rest = [])))) ∧
      readOne s = (.eos, { s with rxs := rest })) := by
  rcases hx : s.rxs with _ | ⟨e, rest⟩
  · have hs : { s with rxs := [] } = s := by rw [← hx]
    rcases hl : s.cfg.live
    · exact .inr (.inr ⟨[], .inr ⟨rfl, .inr ⟨rfl, rfl⟩⟩, by simp [readOne, takeEvent, hx, readingOf, hl, hs]⟩)
    · exact .inr (.inl ⟨[], rfl, .inr ⟨rfl, rfl⟩, by simp [readOne, takeEvent, hx, readingOf, hl, hs]⟩)
  · cases e with
    | byte b => exact .inl ⟨b, rest, rfl, by simp [readOne, takeEvent, hx, readingOf]⟩
    | fault => exact .inr (.inr ⟨rest, .inl rfl, by simp [readOne, takeEvent, hx, readingOf]⟩)
    | empty =>
      rcases hl : s.cfg.live
      · exact .inr (.inr ⟨rest, .inr ⟨rfl, .inl rfl⟩, by simp [readOne, takeEvent, hx, readingOf, hl]⟩)
      · exact .inr (.inl ⟨rest, rfl, .inl rfl, by simp [readOne, takeEvent, hx, readingOf, hl]⟩)

theorem readOne_byte {s : State} {b : Byte} {rest : List Event} (h : s.rxs = .byte b :: rest) :
    readOne s = (.byte b, { s with rxs := rest }) := by
  simp [readOne, takeEvent, h, readingOf]

theorem readOne_hold {s : State} {rest : List Event} (h : s.rxs = .empty :: rest) (hl : s.cfg.live = true) :
    readOne s = (.hold, { s with rxs := rest }) := by
  simp [readOne, takeEvent, h, readingOf, hl]

theorem readOne_eos {s : State} {rest : List Event}
    (h : s.rxs = .fault :: rest ∨ (s.rxs = .empty :: rest ∧ s.cfg.live = false)) :
    readOne s = (.eos, { s with rxs := rest }) := by
  rcases h with h | ⟨h, hl⟩
  · simp [readOne, takeEvent, h, readingOf]
  · simp [readOne, takeEvent, h, readingOf, hl]

/-- An exhausted stream reads as an `Empty` event (R105). -/
theorem readOne_exhausted {s : State} (h : s.rxs = []) : readOne s = (if s.cfg.live then .hold else .eos, s) := by
  simp [readOne, takeEvent, h, readingOf]

/-! ### When the receiver may step -/

theorem framedBlocked_none (s : State) :
    framedBlocked s = none ↔ s.stHalt = false ∧ s.cfg.mode = .framed ∧ (s.rxPhase = .head ∨ s.rxPhase = .tail) := by
  unfold framedBlocked
  rcases s.stHalt with _ | _ <;> rcases s.cfg.mode with _ | _ <;> rcases s.rxPhase <;> simp

theorem passiveBlocked_none (s : State) :
    passiveBlocked s = none ↔ s.stHalt = false ∧ s.cfg.mode = .passive ∧ s.rxPhase = .scan := by
  unfold passiveBlocked
  rcases s.stHalt with _ | _ <;> rcases s.cfg.mode with _ | _ <;> rcases s.rxPhase <;> simp

/-- The receiver may step exactly in the collecting phases of its mode, outside a halt (R38, R39, R148, R150). -/
theorem receiverBlocked_none (s : State) :
    receiverBlocked s = none ↔
      s.stHalt = false ∧
        ((s.cfg.mode = .framed ∧ (s.rxPhase = .head ∨ s.rxPhase = .tail)) ∨ (s.cfg.mode = .passive ∧ s.rxPhase = .scan)) := by
  unfold receiverBlocked
  rcases hm : s.cfg.mode with _ | _
  · simp [framedBlocked_none, hm]
  · simp [passiveBlocked_none, hm]

/-- Enabling reads the halt, the mode and the phase alone. -/
theorem receiverBlocked_congr {s t : State} (hh : t.stHalt = s.stHalt) (hc : t.cfg = s.cfg) (hp : t.rxPhase = s.rxPhase) :
    receiverBlocked t = receiverBlocked s := by
  simp [receiverBlocked, framedBlocked, passiveBlocked, hh, hc, hp]

/-! ### Fetch and step -/

theorem fetch_request {s : State} {c : Cmd} {rest : List Cmd} {i : Instr} (hp : s.port = c :: rest)
    (hd : decode s.cfg c = .ok i) : fetch s = .ok (i, { s with port := rest }) := by
  simp [fetch, hp, hd]

theorem fetch_idle {s : State} (hp : s.port = []) : fetch s = .ok (receiverInstr s, s) := by
  simp [fetch, hp]

/-- A step that answers a next state ran one instruction: the first request, or the receiver's own step. -/
theorem step_eq_next {s t : State} (h : step s = .next t) :
    (∃ c rest i, s.port = c :: rest ∧ decode s.cfg c = .ok i ∧ exec i { s with port := rest } = .next t) ∨
    (s.port = [] ∧ exec (receiverInstr s) s = .next t) := by
  unfold step fetch at h
  rcases hp : s.port with _ | ⟨c, rest⟩
  · simp only [hp] at h
    exact .inr ⟨rfl, h⟩
  · simp only [hp] at h
    rcases hd : decode s.cfg c with e | i
    · simp [hd] at h
    · simp only [hd] at h
      exact .inl ⟨c, rest, i, rfl, hd, h⟩

theorem step_idle {s : State} (hp : s.port = []) : step s = exec (receiverInstr s) s := by
  simp [step, fetch_idle hp]

end Sys2Proof.Machine
end

