-- ==== Sys2Proof/Laws/DevData.lean ====
section
/-! SUPPORT. The device-data decoder: what a sub-record can do, and the walker read one sub-record at a time. -/

namespace Sys2Proof.Machine

/-! ### Sub-decoders -/

/-- A sub-payload with an open layout: a record with the state unchanged, or the refusal of its size. -/
theorem openRecord_cases (layout : Option Layout) (cls : SizeClass) (mk : SubBody → DevRec) (sub : Bytes) (s : State) :
    (∃ body, openRecord layout cls mk sub s = .ok (mk body) s) ∨
    (∃ want, openRecord layout cls mk sub s =
      .raised (raiseError .payloadSize (.payloadSize cls sub.length want) s)) := by
  unfold openRecord
  cases layout with
  | none => exact .inl ⟨_, rfl⟩
  | some l =>
    rcases h : cutFields l sub with _ | fields
    · exact .inr ⟨l.size, by simp [h]⟩
    · exact .inl ⟨.cut fields, by simp [h]⟩

theorem openRecord_uncut (cls : SizeClass) (mk : SubBody → DevRec) (sub : Bytes) (s : State) :
    openRecord none cls mk sub s = .ok (mk (.uncut sub)) s := rfl

theorem openRecord_cut {l : Layout} {sub : Bytes} (cls : SizeClass) (mk : SubBody → DevRec) (s : State)
    (h : sub.length = l.size) : openRecord (some l) cls mk sub s = .ok (mk (.cut (readFields l sub))) s := by
  simp [openRecord, cutFields, h]

theorem openRecord_refused {l : Layout} {sub : Bytes} (cls : SizeClass) (mk : SubBody → DevRec) (s : State)
    (h : sub.length ≠ l.size) :
    openRecord (some l) cls mk sub s = .raised (raiseError .payloadSize (.payloadSize cls sub.length l.size) s) := by
  simp [openRecord, cutFields, h]

/-- One sub-record by its tag: at most it is skipped, or a size is refused. -/
theorem subRecord_cases (tag : U16) (id : U32) (sub : Bytes) (s : State) :
    (∃ d, subRecord tag id sub s = .ok (some d) s) ∨
    (subRecord tag id sub s = .ok none (skipRecord tag s)) ∨
    (∃ c want, subRecord tag id sub s = .raised (raiseError .payloadSize (.payloadSize c sub.length want) s)) := by
  unfold subRecord optLegacy optCompact inverter eventRecord
  split
  · rcases openRecord_cases s.cfg.layoutOptLegacy .sOptLegacy (.optLegacy id) sub s with ⟨b, h⟩ | ⟨w, h⟩
    · exact .inl ⟨_, by rw [h]; rfl⟩
    · exact .inr (.inr ⟨_, w, by rw [h]; rfl⟩)
  split
  · split
    · exact .inr (.inr ⟨.sOptCompact, compactLen, rfl⟩)
    · exact .inl ⟨_, rfl⟩
  split
  · rcases openRecord_cases s.cfg.layoutInverter .sInverter (.inverter id) sub s with ⟨b, h⟩ | ⟨w, h⟩
    · exact .inl ⟨_, by rw [h]; rfl⟩
    · exact .inr (.inr ⟨_, w, by rw [h]; rfl⟩)
  split
  · rcases openRecord_cases s.cfg.layoutEvent .sEvent (.event id) sub s with ⟨b, h⟩ | ⟨w, h⟩
    · exact .inl ⟨_, by rw [h]; rfl⟩
    · exact .inr (.inr ⟨_, w, by rw [h]; rfl⟩)
  exact .inr (.inl rfl)

/-- A tag that is none of the four is skipped (R222, R230). -/
theorem subRecord_other {tag : U16} (id : U32) (sub : Bytes) (s : State) (h : tagUnrecognised tag = true) :
    subRecord tag id sub s = .ok none (skipRecord tag s) := by
  simp only [tagUnrecognised, Bool.and_eq_true, bne_iff_ne, ne_eq] at h
  obtain ⟨⟨⟨h0, h1⟩, h2⟩, h3⟩ := h
  simp [subRecord, h0, h1, h2, h3]

/-! ### The walker -/

theorem walk_nil (fuel pos : Nat) (out : List DevRec) (s : State) : walk fuel pos [] out s = .ok out s := by
  cases fuel <;> rfl

/-- One to seven bytes are no sub-header (R221). -/
theorem walk_shortHeader {fuel : Nat} (pos : Nat) {rest : Bytes} (out : List DevRec) (s : State) (h0 : rest ≠ [])
    (h : rest.length < 8) :
    walk (fuel + 1) pos rest out s =
      .raised (raiseError .subRecordTruncated (.truncated pos rest.length 8) s) := by
  have hp : payRead rest 0 8 = none := by simp [payRead]; omega
  simp [walk, h0, subHdrLen, hp]

theorem le16_take {b : Bytes} {i n : Nat} (h : i + 2 ≤ n) : le16 (b.take n) i = le16 b i := by
  simp [le16, byteAt, List.getD_eq_getElem?_getD, List.getElem?_take_of_lt (show i < n by omega),
    List.getElem?_take_of_lt (show i + 1 < n by omega)]

theorem le32_take {b : Bytes} {i n : Nat} (h : i + 4 ≤ n) : le32 (b.take n) i = le32 b i := by
  simp [le32, byteAt, List.getD_eq_getElem?_getD, List.getElem?_take_of_lt (show i < n by omega),
    List.getElem?_take_of_lt (show i + 1 < n by omega), List.getElem?_take_of_lt (show i + 2 < n by omega),
    List.getElem?_take_of_lt (show i + 3 < n by omega)]

/-- A sub-payload that runs past the end (R221). -/
theorem walk_shortSub {fuel : Nat} (pos : Nat) {rest : Bytes} (out : List DevRec) (s : State) (h8 : 8 ≤ rest.length)
    (h : rest.length < 8 + (le16 rest 6).toNat) :
    walk (fuel + 1) pos rest out s =
      .raised (raiseError .subRecordTruncated (.truncated pos (rest.length - 8) (le16 rest 6).toNat) s) := by
  have hne : rest ≠ [] := by rintro rfl; simp at h8
  have hp : payRead rest 0 8 = some (rest.take 8) := by simp [payRead, h8]
  have hl : le16 (rest.take 8) 6 = le16 rest 6 := le16_take (by omega)
  have hq : payRead rest 8 (le16 rest 6).toNat = none := by simp [payRead]; omega
  simp [walk, hne, subHdrLen, hp, hl, hq]

/-- A whole sub-record: its tag is dispatched and the walk goes on behind it (R221). -/
theorem walk_record {fuel : Nat} (pos : Nat) {rest : Bytes} (out : List DevRec) (s : State)
    (h : 8 + (le16 rest 6).toNat ≤ rest.length) :
    walk (fuel + 1) pos rest out s =
      (subRecord (le16 rest 0) (normId (le32 rest 2)) ((rest.drop 8).take (le16 rest 6).toNat) s).bind fun r s' =>
        walk fuel (pos + 8 + (le16 rest 6).toNat) (rest.drop (8 + (le16 rest 6).toNat)) (out ++ r.toList) s' := by
  have hne : rest ≠ [] := by rintro rfl; simp at h
  have hp : payRead rest 0 8 = some (rest.take 8) := by simp [payRead]; omega
  have hl : le16 (rest.take 8) 6 = le16 rest 6 := le16_take (by omega)
  have ht : le16 (rest.take 8) 0 = le16 rest 0 := le16_take (by omega)
  have hi : le32 (rest.take 8) 2 = le32 rest 2 := le32_take (by omega)
  have hq : payRead rest 8 (le16 rest 6).toNat = some ((rest.drop 8).take (le16 rest 6).toNat) := by
    simp [payRead, h]
  simp [walk, hne, subHdrLen, hp, hl, ht, hi, hq]

/-- The state with another skip count and tags (R28, R250), where the tags were as many as the count says: nothing else a decoder
writes before it ends. -/
inductive Skips (s : State) : State → Prop where
  | intro (n : Nat) (tags : List U16) (h : s.stTags.length = s.stSub → tags.length = n) :
    Skips s { s with stSub := n, stTags := tags }

theorem Skips.refl (s : State) : Skips s s := .intro s.stSub s.stTags id

theorem Skips.skip (tag : U16) (s : State) : Skips s (skipRecord tag s) := .intro _ _ fun h => by simp [h]

theorem Skips.clear (s : State) : Skips s (clearSkips s) := .intro _ _ fun _ => rfl

theorem Skips.trans {s t u : State} (h1 : Skips s t) (h2 : Skips t u) : Skips s u := by
  cases h1 with | intro _ _ h => cases h2 with | intro n l h' => exact .intro n l fun hs => h' (h hs)

/-- Everything a walk can answer: records, or a refusal of a size or of a truncated sub-record; nothing but the skip count and its
tags is written before it. -/
theorem walk_cases (fuel pos : Nat) (rest : Bytes) (out : List DevRec) (s : State) :
    ∃ t, Skips s t ∧
      ((∃ out', walk fuel pos rest out s = .ok out' t) ∨
        (∃ c held want, walk fuel pos rest out s = .raised (raiseError .payloadSize (.payloadSize c held want) t)) ∨
        (∃ p held want,
          walk fuel pos rest out s = .raised (raiseError .subRecordTruncated (.truncated p held want) t))) := by
  induction fuel generalizing pos rest out s with
  | zero => exact ⟨s, .refl s, .inl ⟨out, rfl⟩⟩
  | succ fuel ih =>
    by_cases h0 : rest = []
    · subst h0; exact ⟨s, .refl s, .inl ⟨out, walk_nil _ _ _ _⟩⟩
    by_cases h8 : rest.length < 8
    · exact ⟨s, .refl s, .inr (.inr ⟨_, _, _, walk_shortHeader pos out s h0 h8⟩)⟩
    by_cases hs : rest.length < 8 + (le16 rest 6).toNat
    · exact ⟨s, .refl s, .inr (.inr ⟨_, _, _, walk_shortSub pos out s (by omega) hs⟩)⟩
    rw [walk_record pos out s (by omega)]
    rcases subRecord_cases (le16 rest 0) (normId (le32 rest 2)) ((rest.drop 8).take (le16 rest 6).toNat) s with
      ⟨d, h⟩ | h | ⟨c, want, h⟩
    · rw [h]; exact ih _ _ _ s
    · rw [h]
      obtain ⟨t, ht, h'⟩ := ih (pos + 8 + (le16 rest 6).toNat) (rest.drop (8 + (le16 rest 6).toNat)) (out ++ [])
        (skipRecord (le16 rest 0) s)
      exact ⟨t, (Skips.skip _ s).trans ht, h'⟩
    · rw [h]; exact ⟨s, .refl s, .inr (.inl ⟨c, _, want, rfl⟩)⟩

/-- The iteration bound does not matter once it covers the bytes left (R196). -/
theorem walk_fuel (f1 f2 pos : Nat) (rest : Bytes) (out : List DevRec) (s : State) (h1 : rest.length ≤ f1)
    (h2 : rest.length ≤ f2) :
    walk f1 pos rest out s = walk f2 pos rest out s := by
  induction f1 generalizing f2 pos rest out s with
  | zero =>
    have : rest = [] := List.eq_nil_of_length_eq_zero (by omega)
    subst this; rw [walk_nil, walk_nil]
  | succ n ih =>
    by_cases h0 : rest = []
    · subst h0; rw [walk_nil, walk_nil]
    have : 0 < rest.length := List.length_pos_of_ne_nil h0
    obtain ⟨m, rfl⟩ : ∃ m, f2 = m + 1 := ⟨f2 - 1, by omega⟩
    by_cases h8 : rest.length < 8
    · rw [walk_shortHeader pos out s h0 h8, walk_shortHeader pos out s h0 h8]
    by_cases hs : rest.length < 8 + (le16 rest 6).toNat
    · rw [walk_shortSub pos out s (by omega) hs, walk_shortSub pos out s (by omega) hs]
    rw [walk_record pos out s (by omega), walk_record pos out s (by omega)]
    congr 1
    funext r s'
    apply ih <;> simp <;> omega

/-- Everything DEC.DEVDATA can answer (R221). -/
theorem decDevdata_cases (pay : Bytes) (s : State) :
    ∃ t, Skips s t ∧
      ((∃ out n, decDevdata pay s = .ok (.devData out n) t) ∨
        (∃ c held want, decDevdata pay s = .raised (raiseError .payloadSize (.payloadSize c held want) t)) ∨
        (∃ p held want, decDevdata pay s = .raised (raiseError .subRecordTruncated (.truncated p held want) t))) := by
  unfold decDevdata
  obtain ⟨t, ht, ⟨o, h⟩ | ⟨c, a, b, h⟩ | ⟨p, a, b, h⟩⟩ := walk_cases pay.length 0 pay [] (clearSkips s)
  · exact ⟨t, (Skips.clear s).trans ht, .inl ⟨o, t.stSub, by rw [h]; rfl⟩⟩
  · exact ⟨t, (Skips.clear s).trans ht, .inr (.inl ⟨c, a, b, by rw [h]; rfl⟩)⟩
  · exact ⟨t, (Skips.clear s).trans ht, .inr (.inr ⟨p, a, b, by rw [h]; rfl⟩)⟩

end Sys2Proof.Machine
end

