-- ==== Sys2Proof/Laws/Frame.lean ====
section
/-! SUPPORT. The frame unit: FRAME.FORMAT and FRAME.SEND as one state update, the fields of an encoded frame, and the five ways
FRAME.PARSE ends. -/

namespace Sys2Proof.Machine

/-! ### Sending -/

theorem coverageOf_length (seq : U16) (src dst : U32) (fn : U16) (payload : Bytes) :
    (coverageOf seq src dst fn payload).length = 12 + payload.length := by
  simp [coverageOf]; omega

/-- FRAME.FORMAT gives the frame and leaves its checksum in the accumulator (R141). -/
theorem formatFrame_eq (seq : U16) (src dst : U32) (fn : U16) (payload : Bytes) (s : State) :
    formatFrame seq src dst fn payload s =
      (formatOf seq src dst fn payload, { s with crcAcc := crcOf (coverageOf seq src dst fn payload) }) := by
  simp [formatFrame, formatOf, crcRun_eq]

/-- FRAME.SEND appends the frame (R142). -/
theorem sendFrame_eq (seq : U16) (src dst : U32) (fn : U16) (payload : Bytes) (s : State) :
    sendFrame seq src dst fn payload s =
      { s with
        txs := s.txs ++ formatOf seq src dst fn payload
        crcAcc := crcOf (coverageOf seq src dst fn payload)
        txBusy := false } := by
  simp [sendFrame, formatFrame_eq, streamWrite]

theorem formatOf_length (seq : U16) (src dst : U32) (fn : U16) (payload : Bytes) :
    (formatOf seq src dst fn payload).length = 22 + payload.length := by
  simp [formatOf, frameWith, encodeFrame_length]

theorem lengthField_toNat {payload : Bytes} (h : payload.length ≤ 65535) :
    (lengthField payload).toNat = payload.length := by
  simp [lengthField]; omega

/-! ### The fields of an encoded frame without its magic (R81) -/

/-- The bytes of a frame after the magic. -/
theorem encodeFrame_drop (len lenInv seq : U16) (src dst : U32) (fn : U16) (payload : Bytes) (cks : U16) :
    (encodeFrame len lenInv seq src dst fn payload cks).drop 4 =
      encLE16 len ++ (encLE16 lenInv ++ (encLE16 seq ++ (encLE32 src ++ (encLE32 dst ++ (encLE16 fn ++ (payload
        ++ encLE16 cks)))))) := by
  simp [encodeFrame, magic]

section Fields

variable (len lenInv seq : U16) (src dst : U32) (fn : U16) (payload : Bytes) (cks : U16)

/-- The body of a frame. -/
abbrev frameBody : Bytes := (encodeFrame len lenInv seq src dst fn payload cks).drop 4

theorem frameBody_length : (frameBody len lenInv seq src dst fn payload cks).length = 18 + payload.length := by
  rw [frameBody, List.length_drop, encodeFrame_length]; omega

theorem frameBody_len : le16 (frameBody len lenInv seq src dst fn payload cks) 0 = len := by
  rw [frameBody, encodeFrame_drop, le16_encLE16]

theorem frameBody_lenInv : le16 (frameBody len lenInv seq src dst fn payload cks) 2 = lenInv := by
  rw [frameBody, encodeFrame_drop]
  exact (le16_append_right (encLE16 len) _ 0).trans (le16_encLE16 _ _)

theorem frameBody_seq : le16 (frameBody len lenInv seq src dst fn payload cks) 4 = seq := by
  rw [frameBody, encodeFrame_drop, ← List.append_assoc]
  exact (le16_append_right (encLE16 len ++ encLE16 lenInv) _ 0).trans (le16_encLE16 _ _)

theorem frameBody_src : le32 (frameBody len lenInv seq src dst fn payload cks) 6 = src := by
  rw [frameBody, encodeFrame_drop, ← List.append_assoc, ← List.append_assoc]
  exact (le32_append_right (encLE16 len ++ encLE16 lenInv ++ encLE16 seq) _ 0).trans (le32_encLE32 _ _)

theorem frameBody_dst : le32 (frameBody len lenInv seq src dst fn payload cks) 10 = dst := by
  rw [frameBody, encodeFrame_drop, ← List.append_assoc, ← List.append_assoc, ← List.append_assoc]
  exact (le32_append_right (encLE16 len ++ encLE16 lenInv ++ encLE16 seq ++ encLE32 src) _ 0).trans (le32_encLE32 _ _)

theorem frameBody_fn : le16 (frameBody len lenInv seq src dst fn payload cks) 14 = fn := by
  rw [frameBody, encodeFrame_drop, ← List.append_assoc, ← List.append_assoc, ← List.append_assoc, ← List.append_assoc]
  exact (le16_append_right (encLE16 len ++ encLE16 lenInv ++ encLE16 seq ++ encLE32 src ++ encLE32 dst) _ 0).trans
    (le16_encLE16 _ _)

/-- Payload and checksum of a frame body: everything after the 16 header bytes. -/
theorem frameBody_split :
    ∃ head : Bytes, head.length = 16 ∧
      frameBody len lenInv seq src dst fn payload cks = head ++ (payload ++ encLE16 cks) :=
  ⟨encLE16 len ++ encLE16 lenInv ++ encLE16 seq ++ encLE32 src ++ encLE32 dst ++ encLE16 fn, rfl,
    by simp [frameBody, encodeFrame_drop, List.append_assoc]⟩

theorem frameBody_payload :
    ((frameBody len lenInv seq src dst fn payload cks).drop 16).take payload.length = payload := by
  obtain ⟨head, hl, h⟩ := frameBody_split len lenInv seq src dst fn payload cks
  rw [h, ← hl, List.drop_left, List.take_left]

theorem frameBody_cks :
    le16 (frameBody len lenInv seq src dst fn payload cks) (16 + payload.length) = cks := by
  obtain ⟨head, hl, h⟩ := frameBody_split len lenInv seq src dst fn payload cks
  have e : le16 (head ++ (payload ++ encLE16 cks)) (head.length + (payload.length + 0)) = cks := by
    rw [le16_append_right, le16_append_right]
    simpa using le16_encLE16 cks []
  rw [h]
  simpa [hl] using e

end Fields

/-! ### Parsing -/

@[simp] theorem toRet_empty : Parsed.toRet .empty = .empty := rfl
@[simp] theorem toRet_message (seq : U16) (src dst : U32) (fn : U16) (payload : Bytes) :
    Parsed.toRet (.message seq src dst fn payload) = .message seq src dst fn payload := rfl

@[simp] theorem raiseParse_eq (k : Code) (info : Info) (s : State) :
    raiseParse k info s = .raised (raiseError k info (voidMessage s)) := rfl

/-- The message a body of the right size holds (R143). -/
def bodyCoverage (body : Bytes) : Bytes :=
  coverageOf (le16 body 4) (le32 body 6) (le32 body 10) (le16 body 14) ((body.drop hdrLen).take (le16 body 0).toNat)

/-- The state FRAME.PARSE accepts a body in (R143). -/
def acceptBody (body : Bytes) (s : State) : State :=
  State.setCode .ok
    { s with
      crcAcc := crcOf (bodyCoverage body)
      mSeq := le16 body 4, mFrom := le32 body 6, mTo := le32 body 10, mFn := le16 body 14
      mLen := le16 body 0, mLenInv := le16 body 2, mCks := le16 body (hdrLen + (le16 body 0).toNat)
      pay := (body.drop hdrLen).take (le16 body 0).toNat }

theorem parseChecked_mismatch {body : Bytes} {s : State}
    (h : le16 body (hdrLen + (le16 body 0).toNat) ≠ crcOf (bodyCoverage body)) :
    parseChecked body s =
      raiseParse .checksumMismatch
        (.checksums (le16 body (hdrLen + (le16 body 0).toNat)) (crcOf (bodyCoverage body)))
        { s with
          crcAcc := crcOf (bodyCoverage body)
          stWire := le16 body (hdrLen + (le16 body 0).toNat), stCalc := crcOf (bodyCoverage body) } := by
  unfold bodyCoverage at h ⊢
  simp only [parseChecked, crcRun_eq, if_pos h]

theorem parseChecked_accept {body : Bytes} {s : State}
    (h : le16 body (hdrLen + (le16 body 0).toNat) = crcOf (bodyCoverage body)) :
    parseChecked body s =
      .ok (.message (le16 body 4) (le32 body 6) (le32 body 10) (le16 body 14)
        ((body.drop hdrLen).take (le16 body 0).toNat)) (acceptBody body s) := by
  unfold bodyCoverage at h
  simp only [parseChecked, crcRun_eq, acceptBody, bodyCoverage, ne_eq, h, not_true_eq_false, if_false]

/-- The five ways FRAME.PARSE ends, in the order of its tests (R143). -/
theorem parseBody_cases (body : Bytes) (s : State) :
    (body.length < 18 ∧ parseBody body s = .ok .empty (State.setCode .shortMessage (clearMessage s))) ∨
    (18 ≤ body.length ∧ le16 body 0 ≠ not16 (le16 body 2) ∧
      parseBody body s = raiseParse .lengthMismatch (.lengths (le16 body 0) (le16 body 2)) s) ∨
    (18 ≤ body.length ∧ le16 body 0 = not16 (le16 body 2) ∧ body.length ≠ 18 + (le16 body 0).toNat ∧
      parseBody body s =
        raiseParse .sizeMismatch (.sizes body.length (18 + (le16 body 0).toNat)) s) ∨
    (le16 body 0 = not16 (le16 body 2) ∧ body.length = 18 + (le16 body 0).toNat ∧
      le16 body (hdrLen + (le16 body 0).toNat) ≠ crcOf (bodyCoverage body) ∧
      parseBody body s =
        raiseParse .checksumMismatch
          (.checksums (le16 body (hdrLen + (le16 body 0).toNat)) (crcOf (bodyCoverage body)))
          { s with
            crcAcc := crcOf (bodyCoverage body)
            stWire := le16 body (hdrLen + (le16 body 0).toNat), stCalc := crcOf (bodyCoverage body) }) ∨
    (le16 body 0 = not16 (le16 body 2) ∧ body.length = 18 + (le16 body 0).toNat ∧
      le16 body (hdrLen + (le16 body 0).toNat) = crcOf (bodyCoverage body) ∧
      parseBody body s =
        .ok (.message (le16 body 4) (le32 body 6) (le32 body 10) (le16 body 14)
          ((body.drop hdrLen).take (le16 body 0).toNat)) (acceptBody body s)) := by
  by_cases hs : body.length < 18
  · exact .inl ⟨hs, by simp [parseBody, minBody, hs]⟩
  by_cases hl : le16 body 0 = not16 (le16 body 2)
  · by_cases hz : body.length = 18 + (le16 body 0).toNat
    · have he : parseBody body s = parseChecked body s := by
        unfold parseBody
        rw [if_neg (by simpa [minBody] using hs), if_neg (not_not.mpr hl), if_neg (not_not.mpr (show body.length = minBody + _ from hz))]
      by_cases hc : le16 body (hdrLen + (le16 body 0).toNat) = crcOf (bodyCoverage body)
      · exact .inr (.inr (.inr (.inr ⟨hl, hz, hc, he.trans (parseChecked_accept hc)⟩)))
      · exact .inr (.inr (.inr (.inl ⟨hl, hz, hc, he.trans (parseChecked_mismatch hc)⟩)))
    · refine .inr (.inr (.inl ⟨by omega, hl, hz, ?_⟩))
      unfold parseBody
      rw [if_neg (by simpa [minBody] using hs), if_neg (not_not.mpr hl), if_pos (show body.length ≠ minBody + _ from hz)]
      rfl
  · refine .inr (.inl ⟨by omega, hl, ?_⟩)
    unfold parseBody
    rw [if_neg (by simpa [minBody] using hs), if_pos hl]

end Sys2Proof.Machine
end

