-- ==== Sys2Proof/Laws/Payload.lean ====
section
/-! SUPPORT. The dispatcher: what a decoder can answer, and what DISPATCH can answer. -/

namespace Sys2Proof.Machine

theorem fixedSize_ok {k : PlainClass} {want : Nat} {pay : Bytes} (r : Result) (s : State) (h : pay.length = want) :
    fixedSize k want pay r s = .ok r s := by
  simp [fixedSize, h]

theorem fixedSize_refused {k : PlainClass} {want : Nat} {pay : Bytes} (r : Result) (s : State) (h : pay.length ≠ want) :
    fixedSize k want pay r s = .raised (payloadSizeError k pay want s) := by
  simp [fixedSize, h]

/-- A fixed layout: its result with the state unchanged, or the refusal of the size (R195). -/
theorem fixedSize_cases (k : PlainClass) (want : Nat) (pay : Bytes) (r : Result) (s : State) :
    fixedSize k want pay r s = .ok r s ∨ fixedSize k want pay r s = .raised (payloadSizeError k pay want s) := by
  by_cases h : pay.length = want
  · exact .inl (fixedSize_ok r s h)
  · exact .inr (fixedSize_refused r s h)

@[simp] theorem flagDecoded_missed {r : Result} (s : State) (h : r.missed = true) : s.flagDecoded r = s := by
  simp [State.flagDecoded, h]

@[simp] theorem flagDecoded_named {r : Result} (s : State) (h : r.missed = false) : s.flagDecoded r = s.setCode .ok := by
  simp [State.flagDecoded, h]

@[simp] theorem flagMiss_missed {r : Result} (s : State) (h : r.missed = true) : s.flagMiss r = s.setCode .mapMiss := by
  simp [State.flagMiss, h]

@[simp] theorem flagMiss_named {r : Result} (s : State) (h : r.missed = false) : s.flagMiss r = s := by
  simp [State.flagMiss, h]

/-- Which decoder DISPATCH runs for a class (R181); none for `K_UNKNOWN`. -/
def decoderOf : PlainClass → Option (Bytes → State → Res Result)
  | .unknown => none
  | .zeroarg => some decNone
  | .encrypted => some decNone
  | .opmode => some decOpmode
  | .status => some decStatus
  | .param => some decParam
  | .version => some decVersion
  | .offlen => some decOfflen
  | .long => some decLong
  | .valtype => some decValtype
  | .paramval => some decParamval
  | .time => some decTime
  | .statusvec => some decStatusvec
  | .devdata => some decDevdata

theorem dispatchClass_decoder {k : PlainClass} {d : Bytes → State → Res Result} (fn : U16) (pay : Bytes) (s : State)
    (h : decoderOf k = some d) : dispatchClass k fn pay s = finishDispatch fn (d pay s) := by
  cases k <;> cases h <;> rfl

/-- What a decoder can answer: a result with at most a flagged miss or sub-records skipped, or one of the two refusals. -/
inductive DecoderAnswer (s : State) : Res Result → Prop where
  | found (r : Result) (t : State) (h : r.missed = false) (ht : Skips s t) : DecoderAnswer s (.ok r t)
  | missed (r : Result) (h : r.missed = true) : DecoderAnswer s (.ok r (s.setCode .mapMiss))
  | size (c : SizeClass) (held want : Nat) (t : State) (ht : Skips s t) :
    DecoderAnswer s (.raised (raiseError .payloadSize (.payloadSize c held want) t))
  | truncated (p held want : Nat) (t : State) (ht : Skips s t) :
    DecoderAnswer s (.raised (raiseError .subRecordTruncated (.truncated p held want) t))

theorem fixedSize_answer (k : PlainClass) (want : Nat) (pay : Bytes) (r : Result) (s : State) (h : r.missed = false) :
    DecoderAnswer s (fixedSize k want pay r s) := by
  rcases fixedSize_cases k want pay r s with e | e
  · rw [e]; exact .found r s h (.refl s)
  · rw [e]; exact .size (.cls k) pay.length want s (.refl s)

theorem named_answer (k : PlainClass) (want : Nat) (pay : Bytes) (r : Result) (s : State) :
    DecoderAnswer s ((fixedSize k want pay r s).bind fun r s' => .ok r (s'.flagMiss r)) := by
  rcases fixedSize_cases k want pay r s with e | e
  · rw [e, bind_ok]
    rcases h : r.missed
    · rw [flagMiss_named s h]; exact .found r s h (.refl s)
    · rw [flagMiss_missed s h]; exact .missed r h
  · rw [e, bind_raised]; exact .size (.cls k) pay.length want s (.refl s)

/-- Every decoder answers in one of these ways (R184 to R194, R221). -/
theorem decoder_answer {k : PlainClass} {d : Bytes → State → Res Result} (h : decoderOf k = some d) (pay : Bytes)
    (s : State) : DecoderAnswer s (d pay s) := by
  cases k <;> cases h
  case zeroarg => exact .found .empty s rfl (.refl s)
  case encrypted => exact .found .empty s rfl (.refl s)
  case opmode => exact named_answer _ _ _ _ s
  case status => exact named_answer _ _ _ _ s
  case param => exact fixedSize_answer _ _ _ _ s rfl
  case version => exact fixedSize_answer _ _ _ _ s rfl
  case offlen =>
    unfold decOfflen
    split
    · exact .size (.cls .offlen) pay.length 8 s (.refl s)
    · exact .found _ s rfl (.refl s)
  case long => exact fixedSize_answer _ _ _ _ s rfl
  case valtype => exact fixedSize_answer _ _ _ _ s rfl
  case paramval => exact fixedSize_answer _ _ _ _ s rfl
  case time => exact fixedSize_answer _ _ _ _ s rfl
  case statusvec =>
    unfold decStatusvec
    split
    · exact .found _ s rfl (.refl s)
    · exact fixedSize_answer _ _ _ _ s rfl
  case devdata =>
    obtain ⟨t, ht, ⟨o, n, e⟩ | ⟨c, a, b, e⟩ | ⟨p, a, b, e⟩⟩ := decDevdata_cases pay s <;> rw [e]
    · exact .found _ t rfl ht
    · exact .size c a b t ht
    · exact .truncated p a b t ht

/-- What DISPATCH can answer (R181): `Decoded` with `OK` or `MapMiss`, or one of the three errors. -/
inductive DispatchAnswer (fn : U16) (s : State) : Res Ret → Prop where
  | ok (r : Result) (t : State) (h : r.missed = false) (ht : Skips s t) :
    DispatchAnswer fn s (.ok (.decoded fn r) (t.setCode .ok))
  | miss (r : Result) (h : r.missed = true) : DispatchAnswer fn s (.ok (.decoded fn r) (s.setCode .mapMiss))
  | unknown : DispatchAnswer fn s (.raised (raiseError .unknownFunction (.function fn) s))
  | size (c : SizeClass) (held want : Nat) (t : State) (ht : Skips s t) :
    DispatchAnswer fn s (.raised (raiseError .payloadSize (.payloadSize c held want) t))
  | truncated (p held want : Nat) (t : State) (ht : Skips s t) :
    DispatchAnswer fn s (.raised (raiseError .subRecordTruncated (.truncated p held want) t))

theorem dispatchClass_answer (k : PlainClass) (fn : U16) (pay : Bytes) (s : State) :
    DispatchAnswer fn s (dispatchClass k fn pay s) := by
  rcases h : decoderOf k with _ | d
  · cases k <;> cases h
    exact .unknown
  · rw [dispatchClass_decoder fn pay s h]
    generalize hx : d pay s = x
    have ha : DecoderAnswer s x := hx ▸ decoder_answer h pay s
    cases ha with
    | found r t hr ht => rw [finishDispatch, bind_ok, flagDecoded_named _ hr]; exact .ok r t hr ht
    | missed r hr => rw [finishDispatch, bind_ok, flagDecoded_missed _ hr]; exact .miss r hr
    | size c a b t ht => exact .size c a b t ht
    | truncated p a b t ht => exact .truncated p a b t ht

theorem dispatchMessage_answer (fn : U16) (pay : Bytes) (ctx : Option U16) (s : State) :
    DispatchAnswer fn s (dispatchMessage fn pay ctx s) := dispatchClass_answer _ _ _ _

/-! ### The value handed over last is not read -/

/-- Two answers that agree but for the value handed over last: with one value, in states that differ in `ret` alone; or raised in one
state. -/
inductive SameBut (r : Ret) {α : Type} : Res α → Res α → Prop where
  | ok (a : α) (s : State) : SameBut r (.ok a { s with ret := r }) (.ok a s)
  | raised (s : State) : SameBut r (.raised s) (.raised s)

theorem SameBut.bind {r : Ret} {α β : Type} {x y : Res α} {f : α → State → Res β} (h : SameBut r x y)
    (hf : ∀ a s, SameBut r (f a { s with ret := r }) (f a s)) : SameBut r (x.bind f) (y.bind f) := by
  cases h with
  | ok a s => exact hf a s
  | raised s => exact .raised s

theorem SameBut.handOver {r : Ret} {x y : Res Ret} (h : SameBut r x y) :
    Sys2Proof.Machine.handOver x = Sys2Proof.Machine.handOver y := by
  cases h <;> rfl

theorem fixedSize_ret (r : Ret) (k : PlainClass) (want : Nat) (pay : Bytes) (v : Result) (s : State) :
    SameBut r (fixedSize k want pay v { s with ret := r }) (fixedSize k want pay v s) := by
  unfold fixedSize
  split
  · exact .raised _
  · exact .ok v s

theorem named_ret (r : Ret) (k : PlainClass) (want : Nat) (pay : Bytes) (v : Result) (s : State) :
    SameBut r ((fixedSize k want pay v { s with ret := r }).bind fun v s' => .ok v (s'.flagMiss v))
      ((fixedSize k want pay v s).bind fun v s' => .ok v (s'.flagMiss v)) := by
  refine (fixedSize_ret r k want pay v s).bind fun a t => ?_
  rcases h : a.missed
  · rw [flagMiss_named _ h, flagMiss_named _ h]; exact .ok a t
  · rw [flagMiss_missed _ h, flagMiss_missed _ h]; exact .ok a (t.setCode .mapMiss)

theorem openRecord_ret (r : Ret) (layout : Option Layout) (cls : SizeClass) (mk : SubBody → DevRec) (sub : Bytes) (s : State) :
    SameBut r (openRecord layout cls mk sub { s with ret := r }) (openRecord layout cls mk sub s) := by
  cases layout with
  | none => exact .ok _ s
  | some l =>
    by_cases h : sub.length = l.size
    · rw [openRecord_cut _ _ _ h, openRecord_cut _ _ _ h]; exact .ok _ s
    · rw [openRecord_refused _ _ _ h, openRecord_refused _ _ _ h]; exact .raised _

theorem subRecord_ret (r : Ret) (tag : U16) (id : U32) (sub : Bytes) (s : State) :
    SameBut r (subRecord tag id sub { s with ret := r }) (subRecord tag id sub s) := by
  unfold subRecord
  split
  · exact (openRecord_ret r _ _ _ sub s).bind (f := fun a t => .ok (some a) t) fun a t => .ok (some a) t
  split
  · unfold optCompact
    split
    · exact .raised _
    · exact .ok _ s
  split
  · exact (openRecord_ret r _ _ _ sub s).bind (f := fun a t => .ok (some a) t) fun a t => .ok (some a) t
  split
  · exact (openRecord_ret r _ _ _ sub s).bind (f := fun a t => .ok (some a) t) fun a t => .ok (some a) t
  exact .ok none (skipRecord tag s)

theorem walk_ret (r : Ret) (fuel pos : Nat) (rest : Bytes) (out : List DevRec) (s : State) :
    SameBut r (walk fuel pos rest out { s with ret := r }) (walk fuel pos rest out s) := by
  induction fuel generalizing pos rest out s with
  | zero => exact .ok out s
  | succ fuel ih =>
    by_cases h0 : rest = []
    · subst h0; exact .ok out s
    by_cases h8 : rest.length < 8
    · rw [walk_shortHeader pos out _ h0 h8, walk_shortHeader pos out _ h0 h8]; exact .raised _
    by_cases hs : rest.length < 8 + (le16 rest 6).toNat
    · rw [walk_shortSub pos out _ (by omega) hs, walk_shortSub pos out _ (by omega) hs]; exact .raised _
    rw [walk_record pos out _ (by omega), walk_record pos out _ (by omega)]
    exact (subRecord_ret r _ _ _ s).bind fun a t => ih _ _ _ t

/-- No decoder reads what was handed over last. -/
theorem decoder_ret {k : PlainClass} {d : Bytes → State → Res Result} (h : decoderOf k = some d) (r : Ret) (pay : Bytes)
    (s : State) : SameBut r (d pay { s with ret := r }) (d pay s) := by
  cases k <;> cases h
  case zeroarg => exact .ok _ s
  case encrypted => exact .ok _ s
  case opmode => exact named_ret r _ _ _ _ s
  case status => exact named_ret r _ _ _ _ s
  case param => exact fixedSize_ret r _ _ _ _ s
  case version => exact fixedSize_ret r _ _ _ _ s
  case offlen =>
    unfold decOfflen
    split
    · exact .raised _
    · exact .ok _ s
  case long => exact fixedSize_ret r _ _ _ _ s
  case valtype => exact fixedSize_ret r _ _ _ _ s
  case paramval => exact fixedSize_ret r _ _ _ _ s
  case time => exact fixedSize_ret r _ _ _ _ s
  case statusvec =>
    unfold decStatusvec
    split
    · exact .ok _ s
    · exact fixedSize_ret r _ _ _ _ s
  case devdata => exact (walk_ret r _ _ _ _ (clearSkips s)).bind fun a t => .ok _ t

/-- DISPATCH answers alike whatever was handed over last. -/
theorem dispatchClass_ret (k : PlainClass) (fn : U16) (pay : Bytes) (s : State) (r : Ret) :
    handOver (dispatchClass k fn pay { s with ret := r }) = handOver (dispatchClass k fn pay s) := by
  rcases h : decoderOf k with _ | d
  · cases k <;> cases h; rfl
  · rw [dispatchClass_decoder fn pay _ h, dispatchClass_decoder fn pay _ h]
    refine ((decoder_ret h r pay s).bind fun v t => ?_).handOver
    rcases hv : v.missed
    · rw [flagDecoded_named _ hv, flagDecoded_named _ hv]; exact .ok _ (t.setCode .ok)
    · rw [flagDecoded_missed _ hv, flagDecoded_missed _ hv]; exact .ok _ t

end Sys2Proof.Machine
end

