-- ==== Sys2Proof/Laws/Rx.lean ====
section
/-! SUPPORT. Runs of the machine, and the receivers: the pipeline of a unit stage by stage, what a receiver step does with each kind of read, and the magic
in the passive buffer. -/

namespace Sys2Proof.Machine

/-! ### Runs -/

theorem coreRun_next (M : Host.Core) {s t : M.State} (k : Nat) (h : M.step s = .next t) : M.run (k + 1) s = M.run k t := by
  rw [Host.Core.run, h]

theorem coreRun_stop (M : Host.Core) {s : M.State} (k : Nat) (h : ∀ t, M.step s ≠ .next t) : M.run (k + 1) s = M.step s := by
  rw [Host.Core.run]
  rcases hs : M.step s with t | r | r
  · exact absurd hs (h t)
  · rfl
  · rfl

@[simp] theorem run_zero (s : State) : run 0 s = .next s := rfl

/-- One more step in front of a run. -/
theorem run_succ {s t : State} (k : Nat) (h : step s = .next t) : run (k + 1) s = run k t :=
  coreRun_next Sys2Proof.core k h

/-- A run that stops in its first step. -/
theorem run_stop {s : State} (k : Nat) (h : ∀ t, step s ≠ .next t) : run (k + 1) s = step s :=
  coreRun_stop Sys2Proof.core k h

theorem run_one (s : State) : run 1 s = step s := by
  by_cases h : ∃ t, step s = .next t
  · obtain ⟨t, h⟩ := h
    rw [run_succ 0 h, run_zero, h]
  · exact run_stop 0 fun t ht => h ⟨t, ht⟩

/-- A run may be cut where it is in a next state. -/
theorem run_add {s t : State} (j k : Nat) (h : run j s = .next t) : run (j + k) s = run k t := by
  induction j generalizing s with
  | zero => rw [Nat.zero_add]; cases h; rfl
  | succ j ih =>
    rw [Nat.add_right_comm]
    by_cases hs : ∃ u, step s = .next u
    · obtain ⟨u, hs⟩ := hs
      rw [run_succ _ hs] at h ⊢
      exact ih h
    · have hn : ∀ u, step s ≠ .next u := fun u hu => hs ⟨u, hu⟩
      rw [run_stop j hn] at h
      exact absurd h (hn t)

/-! ### The pipeline -/

theorem allZero_iff (unit : Bytes) : allZero unit = true ↔ unit ≠ [] ∧ ∀ b ∈ unit, b = 0 := by
  simp [allZero, List.all_eq_true]

theorem allZero_false_iff (unit : Bytes) : allZero unit = false ↔ unit = [] ∨ ∃ b ∈ unit, b ≠ 0 := by
  rw [← Bool.not_eq_true, allZero_iff]
  by_cases h : unit = []
  · simp [h]
  · simp [h]

/-- PARSE and DISPATCH in a row (R153): an `Empty` is handed over, an error ends it, a message is dispatched. -/
theorem parseAndDispatch_empty {body : Bytes} {s s' : State} (ctx : Option U16) (h : parseBody body s = .ok .empty s') :
    parseAndDispatch body ctx s = .ok .empty s' := by
  simp [parseAndDispatch, h]

theorem parseAndDispatch_raised {body : Bytes} {s s' : State} (ctx : Option U16) (h : parseBody body s = .raised s') :
    parseAndDispatch body ctx s = .raised s' := by
  simp [parseAndDispatch, h]

theorem parseAndDispatch_message {body : Bytes} {s s' : State} {seq : U16} {src dst : U32} {fn : U16} {payload : Bytes}
    (ctx : Option U16) (h : parseBody body s = .ok (.message seq src dst fn payload) s') :
    parseAndDispatch body ctx s = dispatchMessage s'.mFn s'.pay ctx s' := by
  simp [parseAndDispatch, h]

/-- The stages of DELIVER (R153): dropped, out of alignment, or parsed and dispatched. -/
theorem deliverUnit_cases (unit : Bytes) (ctx : Option U16) (s : State) :
    (allZero unit = true ∧ deliverUnit unit ctx s = .ok .none (State.setCode .allZeroDiscard s)) ∨
    (allZero unit = false ∧ s.cfg.mode = .framed ∧ unit.take 4 ≠ magic ∧
      deliverUnit unit ctx s = .raised (badMagic unit s)) ∨
    (allZero unit = false ∧
      ∃ body, ((s.cfg.mode = .framed ∧ unit = magic ++ body) ∨ (s.cfg.mode = .passive ∧ unit = body)) ∧
        deliverUnit unit ctx s = parseAndDispatch body ctx s) := by
  unfold deliverUnit
  rcases hz : allZero unit with _ | _
  · rcases hm : s.cfg.mode with _ | _
    · by_cases h : unit.take 4 = magic
      · refine .inr (.inr ⟨rfl, unit.drop 4, .inl ⟨rfl, ?_⟩, by simp [h]⟩)
        rw [← h, List.take_append_drop]
      · exact .inr (.inl ⟨rfl, rfl, h, by simp [h]⟩)
    · exact .inr (.inr ⟨rfl, unit, .inr ⟨rfl, rfl⟩, by simp⟩)
  · exact .inl ⟨rfl, by simp⟩

/-! ### One read -/

theorem receive_byte {onByte : Byte → State → Res Ret} {s : State} {b : Byte} {rest : List Event}
    (h : s.rxs = .byte b :: rest) : receive onByte s = onByte b { s with rxs := rest } := by
  simp [receive, readOne_byte h]

theorem receive_hold {onByte : Byte → State → Res Ret} {s : State} {rest : List Event}
    (h : s.rxs = .empty :: rest) (hl : s.cfg.live = true) : receive onByte s = .ok .none { s with rxs := rest } := by
  simp [receive, readOne_hold h hl]

theorem receive_eos {onByte : Byte → State → Res Ret} {s : State} {rest : List Event}
    (h : s.rxs = .fault :: rest ∨ (s.rxs = .empty :: rest ∧ s.cfg.live = false)) :
    receive onByte s = endStream { s with rxs := rest } := by
  simp [receive, readOne_eos h]

theorem receive_exhausted {onByte : Byte → State → Res Ret} {s : State} (h : s.rxs = []) :
    receive onByte s = if s.cfg.live then .ok .none s else endStream s := by
  rcases hl : s.cfg.live <;> simp [receive, readOne_exhausted h, hl]

/-- What a receiver does with one read, whatever stands on the stream: at most one event is consumed. -/
theorem receive_cases (onByte : Byte → State → Res Ret) (s : State) :
    (∃ b rest, s.rxs = .byte b :: rest ∧ receive onByte s = onByte b { s with rxs := rest }) ∨
    (∃ rest, (s.rxs = rest ∨ ∃ e, s.rxs = e :: rest) ∧ receive onByte s = .ok .none { s with rxs := rest }) ∨
    (∃ rest, (s.rxs = rest ∨ ∃ e, s.rxs = e :: rest) ∧ receive onByte s = endStream { s with rxs := rest }) := by
  rcases readOne_cases s with ⟨b, rest, hx, h⟩ | ⟨rest, -, hx, h⟩ | ⟨rest, hx, h⟩
  · exact .inl ⟨b, rest, hx, by simp [receive, h]⟩
  · refine .inr (.inl ⟨rest, ?_, by simp [receive, h]⟩)
    rcases hx with hx | ⟨hx, rfl⟩
    · exact .inr ⟨_, hx⟩
    · exact .inl hx
  · refine .inr (.inr ⟨rest, ?_, by simp [receive, h]⟩)
    rcases hx with hx | ⟨-, hx | ⟨hx, rfl⟩⟩
    · exact .inr ⟨_, hx⟩
    · exact .inr ⟨_, hx⟩
    · exact .inl hx

theorem whenEnabled_eq_next {blocked : Option Fault} {r : Res Ret} {t : State} (h : whenEnabled blocked r = .next t) :
    blocked = none ∧ handOver r = .next t := by
  cases blocked with
  | none => exact ⟨rfl, h⟩
  | some f => exact absurd h (by simp [whenEnabled])

/-! ### One byte -/

/-- The framed receiver on one byte (R148): it collects, turns to the tail, or delivers. -/
theorem framedByte_collect {s : State} (b : Byte) (ctx : Option U16) (h : 2 ≤ s.rxNeed) :
    framedByte b ctx s = .ok .none { s with rxBuf := s.rxBuf ++ [b], rxNeed := s.rxNeed - 1 } := by
  have : s.rxNeed - 1 ≠ 0 := by omega
  simp [framedByte, this]

theorem framedByte_tail {s : State} (b : Byte) (ctx : Option U16) (h : s.rxNeed = 1) (hp : s.rxPhase = .head) :
    framedByte b ctx s =
      .ok .none
        { s with rxBuf := s.rxBuf ++ [b], rxPhase := .tail, rxNeed := (le16 (s.rxBuf ++ [b]) 4).toNat + 2 } := by
  simp [framedByte, h, hp, cksLen]

theorem framedByte_deliver {s : State} (b : Byte) (ctx : Option U16) (h : s.rxNeed = 1) (hp : s.rxPhase = .tail) :
    framedByte b ctx s = deliverUnit (s.rxBuf ++ [b]) ctx { s with rxBuf := [], rxPhase := .head, rxNeed := 20 } := by
  simp [framedByte, h, hp, headLen]

/-- A buffer ends with the magic exactly when it is a unit with the magic behind it (R150). -/
theorem endsWithMagic_iff (buf : Bytes) : endsWithMagic buf = true ↔ ∃ unit, buf = unit ++ magic := by
  simp only [endsWithMagic, Bool.and_eq_true, decide_eq_true_eq, beq_iff_eq]
  constructor
  · rintro ⟨-, h⟩
    exact ⟨buf.take (buf.length - 4), by rw [← h, List.take_append_drop]⟩
  · rintro ⟨unit, rfl⟩
    simp

theorem endsWithMagic_append (unit : Bytes) : endsWithMagic (unit ++ magic) = true :=
  (endsWithMagic_iff _).mpr ⟨unit, rfl⟩

theorem passiveByte_collect {s : State} (b : Byte) (ctx : Option U16) (h : endsWithMagic (s.rxBuf ++ [b]) = false) :
    passiveByte b ctx s = .ok .none { s with rxBuf := s.rxBuf ++ [b] } := by
  simp [passiveByte, h]

theorem passiveByte_warm {s : State} (b : Byte) (ctx : Option U16) (h : endsWithMagic (s.rxBuf ++ [b]) = true)
    (hw : s.rxWarm = true) :
    passiveByte b ctx s = .ok .none (State.setCode .warmupDiscard { s with rxBuf := [], rxWarm := false }) := by
  simp [passiveByte, h, hw]

theorem passiveByte_deliver {s : State} {unit : Bytes} (b : Byte) (ctx : Option U16) (h : s.rxBuf ++ [b] = unit ++ magic)
    (hw : s.rxWarm = false) : passiveByte b ctx s = deliverUnit unit ctx { s with rxBuf := [] } := by
  simp [passiveByte, h, hw, endsWithMagic_append]

/-! ### No magic in the passive buffer -/

/-- Appending a byte that does not complete a magic keeps the buffer free of it (R150). -/
theorem noMagic_snoc {buf : Bytes} {b : Byte} (h : noMagic buf = true) (he : endsWithMagic (buf ++ [b]) = false) :
    noMagic (buf ++ [b]) = true := by
  induction buf with
  | nil => simp [noMagic, magic]
  | cons a rest ih =>
    simp only [List.cons_append, noMagic, Bool.and_eq_true, Bool.not_eq_true', beq_eq_false_iff_ne, ne_eq] at h ⊢
    refine ⟨fun hm => ?_, ih h.2 ?_⟩
    · by_cases h3 : 3 ≤ rest.length
      · apply h.1
        rw [← List.cons_append, List.take_append_of_le_length (by simpa using by omega)] at hm
        exact hm
      · have hlen : (a :: (rest ++ [b])).length ≤ 4 := by simp; omega
        rw [List.take_of_length_le hlen] at hm
        have : endsWithMagic ([] ++ magic) = true := endsWithMagic_append []
        rw [List.nil_append, ← hm, ← List.cons_append] at this
        rw [this] at he
        exact absurd he (by decide)
    · rw [← Bool.not_eq_true, endsWithMagic_iff] at he ⊢
      rintro ⟨unit, hu⟩
      exact he ⟨a :: unit, by simp [hu]⟩

/-- A buffer that ends with the magic holds it. -/
theorem noMagic_magic (unit : Bytes) : noMagic (unit ++ magic) = false := by
  induction unit with
  | nil => rfl
  | cons a rest ih => simp [noMagic, ih]

/-- A prefix of a buffer without a magic has none. -/
theorem noMagic_prefix (a b : Bytes) (h : noMagic (a ++ b) = true) : noMagic a = true := by
  induction a with
  | nil => rfl
  | cons x rest ih =>
    simp only [List.cons_append, noMagic, Bool.and_eq_true, Bool.not_eq_true', beq_eq_false_iff_ne, ne_eq] at h ⊢
    refine ⟨fun hm => h.1 ?_, ih h.2⟩
    have h4 : 4 ≤ (x :: rest).length := by
      have := congrArg List.length hm
      simp at this ⊢
      omega
    rw [← List.cons_append, List.take_append_of_le_length h4]
    exact hm

end Sys2Proof.Machine
end

