-- ==== Sys2Proof/Laws/Effects.lean ====
section
/-! SUPPORT. What one instruction can do to the fields the whole-machine rules are about, said once: it keeps them, reading at
most one event, or it does so and then raises one error. The exceptions, SYS.RESET, SYS.REOPEN and FRAME.SEND, are named. -/

namespace Sys2Proof.Machine

/-! ### Keeping -/

/-- Configuration, host side, streams and the two sticky marks are kept; the phase too, or it was neither `DONE` nor `DESYNC`. -/
structure Keeps (s u : State) : Prop where
  cfg : u.cfg = s.cfg
  hostCtx : u.hostCtx = s.hostCtx
  port : u.port = s.port
  txs : u.txs = s.txs
  rxs : u.rxs = s.rxs
  halt : u.stHalt = s.stHalt
  refused : u.stRefused = s.stRefused
  phase : u.rxPhase = s.rxPhase ∨ (s.rxPhase ≠ .done ∧ s.rxPhase ≠ .desync)

/-- The same, with at most one event consumed. -/
structure Reads (s u : State) : Prop where
  cfg : u.cfg = s.cfg
  hostCtx : u.hostCtx = s.hostCtx
  port : u.port = s.port
  txs : u.txs = s.txs
  rxs : u.rxs = s.rxs ∨ ∃ e, s.rxs = e :: u.rxs
  halt : u.stHalt = s.stHalt
  refused : u.stRefused = s.stRefused
  phase : u.rxPhase = s.rxPhase ∨ (s.rxPhase ≠ .done ∧ s.rxPhase ≠ .desync)

theorem Reads.trans {s u v : State} (h : Reads s u) (h2 : Keeps u v) : Reads s v := by
  obtain ⟨a1, a2, a3, a4, a5, a6, a7, a8⟩ := h
  obtain ⟨b1, b2, b3, b4, b5, b6, b7, b8⟩ := h2
  refine ⟨b1.trans a1, b2.trans a2, b3.trans a3, b4.trans a4, by rw [b5]; exact a5, b6.trans a6, b7.trans a7, ?_⟩
  rcases a8 with a8 | a8
  · rw [a8] at b8; exact b8
  · exact .inr a8

theorem Keeps.trans {s u v : State} (h : Keeps s u) (h2 : Keeps u v) : Keeps s v := by
  obtain ⟨a1, a2, a3, a4, a5, a6, a7, a8⟩ := h
  obtain ⟨b1, b2, b3, b4, b5, b6, b7, b8⟩ := h2
  refine ⟨b1.trans a1, b2.trans a2, b3.trans a3, b4.trans a4, b5.trans a5, b6.trans a6, b7.trans a7, ?_⟩
  rcases a8 with a8 | a8
  · rw [a8] at b8; exact b8
  · exact .inr a8

theorem Keeps.ok {s u : State} (h : Keeps s u) : Reads s u := by
  obtain ⟨a1, a2, a3, a4, a5, a6, a7, a8⟩ := h
  exact ⟨a1, a2, a3, a4, .inl a5, a6, a7, a8⟩
/-- An operation that may raise keeps the fields, up to the error it raises. -/
def Answers {α} (R : State → State → Prop) (s : State) : Res α → Prop
  | .ok _ u => R s u
  | .raised u => ∃ v k info, R s v ∧ u = raiseError k info v ∧ (k.isRefusal = true → k.isError = true)

theorem Answers.bind {α β} {R} (hR : ∀ s u v, R s u → Keeps u v → R s v) {s : State} {r : Res α}
    {f : α → State → Res β}
    (h : Answers R s r) (hf : ∀ a u, Answers Keeps u (f a u)) :
    Answers R s (r.bind f) := by
  cases r with
  | ok a u =>
    have := hf a u
    rw [bind_ok]
    rcases hfu : f a u with ⟨b, v⟩ | v
    · rw [hfu] at this; exact hR _ _ _ h this
    · rw [hfu] at this
      obtain ⟨w, k, info, h1, h2, h3⟩ := this
      exact ⟨w, k, info, hR _ _ _ h h1, h2, h3⟩
  | raised u => exact h

theorem Answers.map {α β} {R} {s : State} {r : Res α} (f : α → β) (h : Answers R s r) :
    Answers R s (r.map f) :=
  by cases r <;> exact h

theorem Keeps.refl (s) : Keeps s s := ⟨rfl, rfl, rfl, rfl, rfl, rfl, rfl, .inl rfl⟩

theorem Skips.keeps {s t : State} (h : Skips s t) : Keeps s t := by
  cases h; exact ⟨rfl, rfl, rfl, rfl, rfl, rfl, rfl, .inl rfl⟩

theorem raise_answers {α} {s v : State} {k : Code} {info : Info} (h : Keeps s v)
    (hk : k.isRefusal = true → k.isError = true) :
    Answers Keeps s (.raised (raiseError k info v) : Res α) :=
  ⟨v, k, info, h, rfl, hk⟩
/-! ### The operations -/

theorem dispatch_answers (k : PlainClass) (fn : U16) (pay : Bytes) (s : State) :
    Answers Keeps s (dispatchClass k fn pay s) := by
  generalize hx : dispatchClass k fn pay s = x
  have ha : DispatchAnswer fn s x := hx ▸ dispatchClass_answer k fn pay s
  cases ha with
  | ok r t hr ht => cases ht; exact ⟨rfl, rfl, rfl, rfl, rfl, rfl, rfl, .inl rfl⟩
  | miss r hr => exact ⟨rfl, rfl, rfl, rfl, rfl, rfl, rfl, .inl rfl⟩
  | unknown => exact raise_answers (Keeps.refl s) (by decide)
  | size c a b t ht => exact raise_answers ht.keeps (by decide)
  | truncated p a b t ht => exact raise_answers ht.keeps (by decide)

theorem decoder_answers {k : PlainClass} {d : Bytes → State → Res Result} (hd : decoderOf k = some d) (pay : Bytes)
    (s : State) :
    Answers Keeps s (d pay s) := by
  generalize hx : d pay s = x
  have ha : DecoderAnswer s x := hx ▸ decoder_answer hd pay s
  cases ha with
  | found r t hr ht => exact ht.keeps
  | missed r hr => exact ⟨rfl, rfl, rfl, rfl, rfl, rfl, rfl, .inl rfl⟩
  | size c a b t ht => exact raise_answers ht.keeps (by decide)
  | truncated p a b t ht => exact raise_answers ht.keeps (by decide)

theorem parse_answers (body : Bytes) (s : State) : Answers Keeps s (parseBody body s) := by
  rcases parseBody_cases body s with
    ⟨_, e⟩ | ⟨_, _, e⟩ | ⟨_, _, _, e⟩ | ⟨_, _, _, e⟩ | ⟨_, _, _, e⟩ <;> rw [e]
  · exact ⟨rfl, rfl, rfl, rfl, rfl, rfl, rfl, .inl rfl⟩
  · exact raise_answers (⟨rfl, rfl, rfl, rfl, rfl, rfl, rfl, .inl rfl⟩) (by decide)
  · exact raise_answers (⟨rfl, rfl, rfl, rfl, rfl, rfl, rfl, .inl rfl⟩) (by decide)
  · exact raise_answers (⟨rfl, rfl, rfl, rfl, rfl, rfl, rfl, .inl rfl⟩) (by decide)
  · exact ⟨rfl, rfl, rfl, rfl, rfl, rfl, rfl, .inl rfl⟩

theorem parseAndDispatch_answers (body : Bytes) (ctx : Option U16) (s : State) :
    Answers Keeps s (parseAndDispatch body ctx s) := by
  unfold parseAndDispatch
  refine Answers.bind (R := Keeps) (fun _ _ _ => Keeps.trans) (parse_answers body s) fun p u => ?_
  cases p
  · exact Keeps.refl u
  · exact dispatch_answers _ _ _ _

theorem deliver_answers (unit : Bytes) (ctx : Option U16) (s : State) (h : s.rxPhase ≠ .done ∧ s.rxPhase ≠ .desync) :
    Answers Keeps s (deliverUnit unit ctx s) := by
  rcases deliverUnit_cases unit ctx s with ⟨_, e⟩ | ⟨_, hm, _, e⟩ | ⟨_, body, _, e⟩ <;> rw [e]
  · exact ⟨rfl, rfl, rfl, rfl, rfl, rfl, rfl, .inl rfl⟩
  · exact raise_answers (⟨rfl, rfl, rfl, rfl, rfl, rfl, rfl, .inr h⟩) (by decide)
  · exact parseAndDispatch_answers _ _ _

theorem endStream_answers (s : State) (h : s.rxPhase ≠ .done ∧ s.rxPhase ≠ .desync) : Answers Keeps s (endStream s) := 
  ⟨rfl, rfl, rfl, rfl, rfl, rfl, rfl, .inr h⟩

theorem reads_then {α} {s u : State} {r : Res α} (h : Reads s u) (h2 : Answers Keeps u r) : Answers Reads s r := by
  cases r with
  | ok a v => exact h.trans h2
  | raised v => 
    obtain ⟨w, k, info, h1, h2, h3⟩ := h2
    exact ⟨w, k, info, h.trans h1, h2, h3⟩

theorem keeps_then {α} {s u : State} {r : Res α} (h : Keeps s u) (h2 : Answers Keeps u r) : Answers Keeps s r := by
  cases r with
  | ok a v => exact h.trans h2
  | raised v => 
    obtain ⟨w, k, info, h1, h2, h3⟩ := h2
    exact ⟨w, k, info, h.trans h1, h2, h3⟩

theorem enabled_phase {s : State} (h : receiverBlocked s = none) : s.rxPhase ≠ .done ∧ s.rxPhase ≠ .desync := by
  rcases (receiverBlocked_none s).mp h with ⟨_, ⟨_, h | h⟩ | ⟨_, h⟩⟩ <;> rw [h] <;> simp

theorem receive_answers (f : Byte → State → Res Ret) (s : State) (h : s.rxPhase ≠ .done ∧ s.rxPhase ≠ .desync)
    (hf : ∀ b r, Answers Keeps { s with rxs := r } (f b { s with rxs := r })) :
    Answers Reads s (receive f s) := by
  rcases receive_cases f s with ⟨b, rest, hx, e⟩ | ⟨rest, hx, e⟩ | ⟨rest, hx, e⟩ <;> rw [e]
  · exact reads_then (u := { s with rxs := rest }) ⟨rfl, rfl, rfl, rfl, .inr ⟨_, hx⟩, rfl, rfl, .inl rfl⟩ (hf b rest)
  · exact ⟨rfl, rfl, rfl, rfl, hx.imp Eq.symm id, rfl, rfl, .inl rfl⟩
  · exact reads_then (u := { s with rxs := rest })
      ⟨rfl, rfl, rfl, rfl, hx.imp Eq.symm id, rfl, rfl, .inl rfl⟩ (endStream_answers _ h)

theorem framedByte_answers (b : Byte) (ctx : Option U16) (s : State) (h : s.rxPhase ≠ .done ∧ s.rxPhase ≠ .desync) :
    Answers Keeps s (framedByte b ctx s) := by
  unfold framedByte
  simp only
  split_ifs
  · exact ⟨rfl, rfl, rfl, rfl, rfl, rfl, rfl, .inl rfl⟩
  · exact ⟨rfl, rfl, rfl, rfl, rfl, rfl, rfl, .inr h⟩
  · exact keeps_then (u := { s with rxBuf := [], rxPhase := .head, rxNeed := headLen })
      ⟨rfl, rfl, rfl, rfl, rfl, rfl, rfl, .inr h⟩ (deliver_answers _ _ _ (by simp))

theorem passiveByte_answers (b : Byte) (ctx : Option U16) (s : State) (h : s.rxPhase ≠ .done ∧ s.rxPhase ≠ .desync) :
    Answers Keeps s (passiveByte b ctx s) := by
  unfold passiveByte
  simp only
  split_ifs
  · exact ⟨rfl, rfl, rfl, rfl, rfl, rfl, rfl, .inl rfl⟩
  · exact keeps_then (u := { s with rxBuf := [] }) ⟨rfl, rfl, rfl, rfl, rfl, rfl, rfl, .inl rfl⟩ (deliver_answers _ _ _ h)
  · exact ⟨rfl, rfl, rfl, rfl, rfl, rfl, rfl, .inl rfl⟩

theorem openRecord_answers (l : Option Layout) (c : SizeClass) (mk : SubBody → DevRec) (sub : Bytes) (s : State) :
    Answers Keeps s (openRecord l c mk sub s) := by
  rcases openRecord_cases l c mk sub s with ⟨_, e⟩ | ⟨_, e⟩ <;> rw [e]
  · exact Keeps.refl s
  · exact raise_answers (Keeps.refl s) (by decide)

theorem subRecord_answers (tag : U16) (id : U32) (sub : Bytes) (s : State) : Answers Keeps s (subRecord tag id sub s) := by
  rcases subRecord_cases tag id sub s with ⟨_, e⟩ | e | ⟨_, _, e⟩ <;> rw [e]
  · exact Keeps.refl s
  · exact ⟨rfl, rfl, rfl, rfl, rfl, rfl, rfl, .inl rfl⟩
  · exact raise_answers (Keeps.refl s) (by decide)
/-- What a step leaves: the fields kept, or kept and one error taken. -/
def Effect (s t : State) :
    Prop :=
  Reads s t ∨ ∃ v k info, Reads s v ∧ t = raiseError k info v ∧ (k.isRefusal = true → k.isError = true)

theorem effect_reads {s t : State} {r : Res Ret} (h : Answers Reads s r) (he : handOver r = .next t) : Effect s t := by
  cases r with
  | ok v u =>
    obtain ⟨a1, a2, a3, a4, a5, a6, a7, a8⟩ : Reads s u := h
    cases he; exact .inl ⟨a1, a2, a3, a4, a5, a6, a7, a8⟩
  | raised u => cases he; exact .inr h

theorem effect_keeps {s t : State} {r : Res Ret} (h : Answers Keeps s r) (he : handOver r = .next t) : Effect s t := by
  cases r with
  | ok v u =>
    obtain ⟨a1, a2, a3, a4, a5, a6, a7, a8⟩ : Reads s u := Keeps.ok h
    cases he; exact .inl ⟨a1, a2, a3, a4, a5, a6, a7, a8⟩
  | raised u => cases he; obtain ⟨v, k, info, h1, h2⟩ := h; exact .inr ⟨v, k, info, h1.ok, h2⟩

theorem effect_value {s t : State} {r : Ret} {u : State} (h : Keeps s u) (he : handOver (.ok r u) = .next t) :
    Effect s t := effect_keeps (r :=
  .ok r u) h he
/-- Every instruction but three has only such an effect. -/
theorem exec_effect (i : Instr) (s t : State) (he : exec i s = .next t) :
    Effect s t ∨ i = .sysReset ∨ (∃ st, i = .sysReopen st) ∨
      (∃ seq src dst fn payload, i = .frameSend seq src dst fn payload) := by
  cases i
  case sysReset => exact .inr (.inl rfl)
  case sysReopen st => exact .inr (.inr (.inl ⟨st, rfl⟩))
  case frameSend a b c d e => exact .inr (.inr (.inr ⟨a, b, c, d, e, rfl⟩))
  all_goals left
  case frame => exact effect_keeps (Answers.map _ (parse_answers _ _)) he
  case frameParse => exact effect_keeps (Answers.map _ (parse_answers _ _)) he
  case subOptLegacy => exact effect_keeps (Answers.map _ (subRecord_answers _ _ _ _)) he
  case subOptCompact => exact effect_keeps (Answers.map _ (subRecord_answers _ _ _ _)) he
  case subInverter => exact effect_keeps (Answers.map _ (subRecord_answers _ _ _ _)) he
  case subEvent => exact effect_keeps (Answers.map _ (subRecord_answers _ _ _ _)) he
  case subOther => exact effect_keeps (Answers.map _ (subRecord_answers _ _ _ _)) he
  case crcInit => exact effect_value (u := crcStart s) ⟨rfl, rfl, rfl, rfl, rfl, rfl, rfl, .inl rfl⟩ he
  case crcStep b => exact effect_value (u := crcFeed b s) ⟨rfl, rfl, rfl, rfl, rfl, rfl, rfl, .inl rfl⟩ he
  case crcRead => exact effect_value (Keeps.refl s) he
  case crcSum =>
    refine effect_value ?_ he
    rw [crcRun_eq]; exact ⟨rfl, rfl, rfl, rfl, rfl, rfl, rfl, .inl rfl⟩
  case coverage => exact effect_value (Keeps.refl s) he
  case frameFormat =>
    simp only [exec, execFrameFormat] at he
    split at he
    · cases he
    · rw [formatFrame_eq] at he
      refine effect_value ?_ he
      exact ⟨rfl, rfl, rfl, rfl, rfl, rfl, rfl, .inl rfl⟩
  case frameFilter =>
    simp only [exec, execFrameFilter] at he
    split at he
    · exact effect_value (u := State.setCode .allZeroDiscard s) ⟨rfl, rfl, rfl, rfl, rfl, rfl, rfl, .inl rfl⟩ he
    · exact effect_value (Keeps.refl s) he
  case rxStepFramed ctx =>
    obtain ⟨hb, he⟩ := whenEnabled_eq_next he
    have hp : s.rxPhase ≠ .done ∧ s.rxPhase ≠ .desync := by
      rcases (framedBlocked_none s).mp hb with ⟨_, _, h | h⟩ <;> rw [h] <;> simp
    exact effect_reads (receive_answers _ s hp fun b r => framedByte_answers b ctx _ hp) he
  case rxStepPassive ctx =>
    obtain ⟨hb, he⟩ := whenEnabled_eq_next he
    have hp : s.rxPhase ≠ .done ∧ s.rxPhase ≠ .desync := by
      rcases (passiveBlocked_none s).mp hb with ⟨_, _, h⟩; rw [h]; simp
    exact effect_reads (receive_answers _ s hp fun b r => passiveByte_answers b ctx _ hp) he
  case endOfStream =>
    obtain ⟨hb, he⟩ := whenEnabled_eq_next he
    exact effect_keeps (endStream_answers _ (enabled_phase hb)) he
  case deliver =>
    obtain ⟨hb, he⟩ := whenEnabled_eq_next he
    exact effect_keeps (deliver_answers _ _ _ (enabled_phase hb)) he
  case resolveCtx => exact effect_value (Keeps.refl s) he
  case devNormid => exact effect_value (Keeps.refl s) he
  case devOptLegacy => exact effect_keeps (Answers.map _ (openRecord_answers _ _ _ _ _)) he
  case devInverter => exact effect_keeps (Answers.map _ (openRecord_answers _ _ _ _ _)) he
  case devEvent => exact effect_keeps (Answers.map _ (openRecord_answers _ _ _ _ _)) he
  case devOptCompact id sub =>
    refine effect_keeps (Answers.map _ (?_ : Answers Keeps s (optCompact id sub s))) he
    unfold optCompact
    split
    · exact raise_answers (Keeps.refl s) (by decide)
    · exact Keeps.refl s
  case devSkip => exact effect_value (Skips.skip _ s).keeps he
  case decNone => exact effect_value (Keeps.refl s) he
  case decOpmode => exact effect_keeps (Answers.map _ (decoder_answers (k := .opmode) rfl _ _)) he
  case decStatus => exact effect_keeps (Answers.map _ (decoder_answers (k := .status) rfl _ _)) he
  case decParam => exact effect_keeps (Answers.map _ (decoder_answers (k := .param) rfl _ _)) he
  case decVersion => exact effect_keeps (Answers.map _ (decoder_answers (k := .version) rfl _ _)) he
  case decOfflen => exact effect_keeps (Answers.map _ (decoder_answers (k := .offlen) rfl _ _)) he
  case decLong => exact effect_keeps (Answers.map _ (decoder_answers (k := .long) rfl _ _)) he
  case decValtype => exact effect_keeps (Answers.map _ (decoder_answers (k := .valtype) rfl _ _)) he
  case decParamval => exact effect_keeps (Answers.map _ (decoder_answers (k := .paramval) rfl _ _)) he
  case decTime => exact effect_keeps (Answers.map _ (decoder_answers (k := .time) rfl _ _)) he
  case decStatusvec => exact effect_keeps (Answers.map _ (decoder_answers (k := .statusvec) rfl _ _)) he
  case decDevdata => exact effect_keeps (Answers.map _ (decoder_answers (k := .devdata) rfl _ _)) he
  case kZeroarg f pay => exact effect_keeps (dispatch_answers .zeroarg f pay _) he
  case kEncrypted f pay => exact effect_keeps (dispatch_answers .encrypted f pay _) he
  case kOpmode f pay => exact effect_keeps (dispatch_answers .opmode f pay _) he
  case kStatus f pay => exact effect_keeps (dispatch_answers .status f pay _) he
  case kParam f pay => exact effect_keeps (dispatch_answers .param f pay _) he
  case kVersion f pay => exact effect_keeps (dispatch_answers .version f pay _) he
  case kOfflen f pay => exact effect_keeps (dispatch_answers .offlen f pay _) he
  case kLong f pay => exact effect_keeps (dispatch_answers .long f pay _) he
  case kValtype f pay => exact effect_keeps (dispatch_answers .valtype f pay _) he
  case kParamval f pay => exact effect_keeps (dispatch_answers .paramval f pay _) he
  case kTime f pay => exact effect_keeps (dispatch_answers .time f pay _) he
  case kStatusvec f pay => exact effect_keeps (dispatch_answers .statusvec f pay _) he
  case kDevdata f pay => exact effect_keeps (dispatch_answers .devdata f pay _) he
  case kUnknown f pay => exact effect_keeps (dispatch_answers .unknown f pay _) he
  case kCtx f pay ctx => exact effect_keeps (dispatch_answers (s.cfg.resolveCtx ctx) f pay _) he
  case dispatch f pay ctx => exact effect_keeps (dispatch_answers (s.cfg.resolveClass f ctx) f pay _) he

end Sys2Proof.Machine
end

