-- ==== Sys2Proof/Laws/Messages.lean ====
section
/-! SUPPORT. The Message registers and `PAY`: which operations keep them, and what FRAME.PARSE leaves in them. -/

namespace Sys2Proof.Machine

/-- An operation keeps the Message registers, also when it raises. -/
def KeepsMessage {α} (s : State) : Res α → Prop
  | .ok _ t => SameMessage s t
  | .raised t => SameMessage s t

/-- What FRAME.PARSE leaves (R143): the null message, one message whole, or nothing a rule may read after its three errors. -/
def MessageSettled (t : State) : Prop :=
  NullMessage t ∨ WholeMessage t ∨ t.stCode = .lengthMismatch ∨ t.stCode = .sizeMismatch ∨ t.stCode = .checksumMismatch

/-- An operation leaves such registers. -/
def LeavesMessage {α} : Res α → Prop
  | .ok _ t => MessageSettled t
  | .raised t => MessageSettled t

theorem SameMessage.refl (s : State) : SameMessage s s := ⟨rfl, rfl, rfl, rfl, rfl, rfl, rfl, rfl⟩

theorem Skips.sameMessage {s t : State} (h : Skips s t) : SameMessage s t := by cases h; exact SameMessage.refl s

theorem keepsMessage_map {α β} {s} {r : Res α} (f : α → β) (h : KeepsMessage s r) : KeepsMessage s (r.map f) := by cases r <;> exact h

theorem keepsMessage_handOver {s t : State} {r : Res Ret} (h : KeepsMessage s r) (he : handOver r = .next t) : SameMessage s t := by
  cases r <;> cases he <;> exact h

theorem dispatch_keepsMessage (k : PlainClass) (fn pay s) : KeepsMessage s (dispatchClass k fn pay s) := by
  generalize hx : dispatchClass k fn pay s = x
  have ha : DispatchAnswer fn s x := hx ▸ dispatchClass_answer k fn pay s
  cases ha with
  | ok r t hr ht => exact ht.sameMessage
  | miss r hr => exact SameMessage.refl s
  | unknown => exact SameMessage.refl s
  | size c a b t ht => exact ht.sameMessage
  | truncated p a b t ht => exact ht.sameMessage

theorem decoder_keepsMessage {k : PlainClass} {d} (hd : decoderOf k = some d) (pay s) : KeepsMessage s (d pay s) := by
  generalize hx : d pay s = x
  have ha : DecoderAnswer s x := hx ▸ decoder_answer hd pay s
  cases ha with
  | found r t hr ht => exact ht.sameMessage
  | missed r hr => exact SameMessage.refl s
  | size c a b t ht => exact ht.sameMessage
  | truncated p a b t ht => exact ht.sameMessage

theorem openRecord_keepsMessage (l : Option Layout) (c mk sub s) : KeepsMessage s (openRecord l c mk sub s) := by
  unfold openRecord
  split
  · exact SameMessage.refl s
  · split <;> exact SameMessage.refl s

theorem subRecord_keepsMessage (tag id sub s) : KeepsMessage s (subRecord tag id sub s) := by
  unfold subRecord
  split_ifs
  · exact keepsMessage_map _ (openRecord_keepsMessage _ _ _ _ _)
  · refine keepsMessage_map _ ?_; unfold optCompact; split <;> exact SameMessage.refl s
  · exact keepsMessage_map _ (openRecord_keepsMessage _ _ _ _ _)
  · exact keepsMessage_map _ (openRecord_keepsMessage _ _ _ _ _)
  · exact SameMessage.refl s

theorem parse_leavesMessage (body s) : LeavesMessage (parseBody body s) := by
  rcases parseBody_cases body s with ⟨_, e⟩ | ⟨_, _, e⟩ | ⟨_, _, _, e⟩ | ⟨_, _, _, e⟩ | ⟨hl, hz, hc, e⟩ <;> rw [e]
  · exact .inl ⟨rfl, rfl, rfl, rfl, rfl, rfl, rfl, rfl⟩
  · exact .inr (.inr (.inl rfl))
  · exact .inr (.inr (.inr (.inl rfl)))
  · exact .inr (.inr (.inr (.inr rfl)))
  · refine .inr (.inl ⟨?_, ?_, ?_⟩)
    · show le16 body 2 = not16 (le16 body 0); rw [hl]; simp [not16]
    · show ((body.drop hdrLen).take (le16 body 0).toNat).length = _
      simp [hdrLen, acceptBody]; omega
    · exact hc

theorem settled_of_same {s t : State} (h : NullMessage s ∨ WholeMessage s) (q : SameMessage s t) : MessageSettled t := by
  obtain ⟨a, b, c, d, e, f, g, i⟩ := q
  rcases h with h | h
  · exact .inl (by unfold NullMessage; rw [a, b, c, d, e, f, g, i]; exact h)
  · exact .inr (.inl (by unfold WholeMessage; rw [a, b, c, d, e, f, g, i]; exact h))

theorem parseAndDispatch_leavesMessage (body ctx s) : LeavesMessage (parseAndDispatch body ctx s) := by
  have h := parse_leavesMessage body s
  rcases hp : parseBody body s with ⟨p, u⟩ | u
  · rw [hp] at h
    cases p with
    | empty => rw [parseAndDispatch_empty ctx hp]; exact h
    | message a b c d e =>
      rw [parseAndDispatch_message ctx hp]
      have hu : NullMessage u ∨ WholeMessage u := by
        rcases h with h | h | h | h | h
        · exact .inl h
        · exact .inr h
        all_goals
          exfalso
          rcases parseBody_cases body s with ⟨_, e⟩ | ⟨_, _, e⟩ | ⟨_, _, _, e⟩ | ⟨_, _, _, e⟩ | ⟨hl, hz, hc, e⟩ <;> rw [e] at hp <;> cases hp
          cases h
      have hs := dispatch_keepsMessage (u.cfg.resolveClass u.mFn ctx) u.mFn u.pay u
      have := parseAndDispatch_message ctx hp
      rw [dispatchMessage] at this
      have hm : ∀ k fn pay, LeavesMessage (dispatchClass k fn pay u) := by
        intro k fn pay
        have hs := dispatch_keepsMessage k fn pay u
        rcases hd : dispatchClass k fn pay u with ⟨v, w⟩ | w <;> rw [hd] at hs <;> exact settled_of_same hu hs
      exact hm _ _ _
  · rw [hp] at h; rw [parseAndDispatch_raised ctx hp]; exact h

/-- It keeps the registers or leaves them so. -/
def MessageAnswer {α} (s : State) (r : Res α) : Prop := KeepsMessage s r ∨ LeavesMessage r

theorem deliver_message (unit ctx s) : MessageAnswer s (deliverUnit unit ctx s) := by
  rcases deliverUnit_cases unit ctx s with ⟨_, e⟩ | ⟨_, hm, _, e⟩ | ⟨_, body, _, e⟩ <;> rw [e]
  · exact .inl (SameMessage.refl s)
  · exact .inl (SameMessage.refl s)
  · exact .inr (parseAndDispatch_leavesMessage _ _ _)

theorem MessageAnswer.after {s u : State} {r : Res Ret} (h : MessageAnswer u r) (q : SameMessage s u) : MessageAnswer s r := by
  rcases h with h | h
  · left
    cases r <;> (obtain ⟨a, b, c, d, e, f, g, i⟩ := q; obtain ⟨a', b', c', d', e', f', g', i'⟩ := h; exact ⟨a'.trans a, b'.trans b, c'.trans c, d'.trans d, e'.trans e, f'.trans f, g'.trans g, i'.trans i⟩)
  · exact .inr h

theorem framedByte_message (b ctx s) : MessageAnswer s (framedByte b ctx s) := by
  unfold framedByte
  dsimp only
  split_ifs
  · exact .inl (SameMessage.refl s)
  · exact .inl (SameMessage.refl s)
  · exact MessageAnswer.after (deliver_message _ _ _) (SameMessage.refl s)

theorem passiveByte_message (b ctx s) : MessageAnswer s (passiveByte b ctx s) := by
  unfold passiveByte
  dsimp only
  split_ifs
  · exact .inl (SameMessage.refl s)
  · exact MessageAnswer.after (deliver_message _ _ _) (SameMessage.refl s)
  · exact .inl (SameMessage.refl s)

theorem messageAnswer_handOver {s t : State} {r : Res Ret} (h : MessageAnswer s r) (he : handOver r = .next t) : SameMessage s t ∨ MessageSettled t := by
  rcases h with h | h
  · exact .inl (keepsMessage_handOver h he)
  · cases r <;> cases he <;> exact .inr h

theorem receive_message (f : Byte → State → Res Ret) (s) (hf : ∀ b r, MessageAnswer s (f b { s with rxs := r })) : MessageAnswer s (receive f s) := by
  rcases receive_cases f s with ⟨b, rest, _, e⟩ | ⟨rest, _, e⟩ | ⟨rest, _, e⟩ <;> rw [e]
  · exact hf b rest
  · exact .inl (SameMessage.refl s)
  · exact .inl (SameMessage.refl s)

end Sys2Proof.Machine
end

