-- ==== Sys2Proof/Laws/PerInstr.lean ====
section
/-! SUPPORT. Per instruction: at which of the levels of R101 a row is placed. A row of format `OP` is placed as a call of itself
(R104); every other row is placed as the bytes of one encoded object. -/

namespace Sys2Proof.Laws.RowLevel

/-- A named operation is its own command; a row with an encoding is never placed as a call (R104). -/
def Statement (i : Instr) : Prop :=
  (i.isNamed = true ∧ encode i = .call i) ∨ (i.isNamed = false ∧ ∀ j, encode i ≠ .call j)

theorem frame (len lenInv seq : U16) (src dst : U32) (fn : U16) (payload : Bytes) (cks : U16) : Statement (.frame len lenInv seq src dst fn payload cks) :=
  .inr ⟨rfl, fun _ => nofun⟩
theorem kZeroarg (f : U16) (pay : Bytes) : Statement (.kZeroarg f pay) := .inr ⟨rfl, fun _ => nofun⟩
theorem kEncrypted (f : U16) (pay : Bytes) : Statement (.kEncrypted f pay) := .inr ⟨rfl, fun _ => nofun⟩
theorem kCtx (f : U16) (pay : Bytes) (ctx : Option U16) : Statement (.kCtx f pay ctx) := .inr ⟨rfl, fun _ => nofun⟩
theorem kOpmode (f : U16) (pay : Bytes) : Statement (.kOpmode f pay) := .inr ⟨rfl, fun _ => nofun⟩
theorem kStatus (f : U16) (pay : Bytes) : Statement (.kStatus f pay) := .inr ⟨rfl, fun _ => nofun⟩
theorem kParam (f : U16) (pay : Bytes) : Statement (.kParam f pay) := .inr ⟨rfl, fun _ => nofun⟩
theorem kVersion (f : U16) (pay : Bytes) : Statement (.kVersion f pay) := .inr ⟨rfl, fun _ => nofun⟩
theorem kOfflen (f : U16) (pay : Bytes) : Statement (.kOfflen f pay) := .inr ⟨rfl, fun _ => nofun⟩
theorem kLong (f : U16) (pay : Bytes) : Statement (.kLong f pay) := .inr ⟨rfl, fun _ => nofun⟩
theorem kValtype (f : U16) (pay : Bytes) : Statement (.kValtype f pay) := .inr ⟨rfl, fun _ => nofun⟩
theorem kParamval (f : U16) (pay : Bytes) : Statement (.kParamval f pay) := .inr ⟨rfl, fun _ => nofun⟩
theorem kTime (f : U16) (pay : Bytes) : Statement (.kTime f pay) := .inr ⟨rfl, fun _ => nofun⟩
theorem kStatusvec (f : U16) (pay : Bytes) : Statement (.kStatusvec f pay) := .inr ⟨rfl, fun _ => nofun⟩
theorem kDevdata (f : U16) (pay : Bytes) : Statement (.kDevdata f pay) := .inr ⟨rfl, fun _ => nofun⟩
theorem kUnknown (f : U16) (pay : Bytes) : Statement (.kUnknown f pay) := .inr ⟨rfl, fun _ => nofun⟩
theorem subOptLegacy (devid : U32) (sub : Bytes) : Statement (.subOptLegacy devid sub) := .inr ⟨rfl, fun _ => nofun⟩
theorem subOptCompact (devid : U32) (sub : Bytes) : Statement (.subOptCompact devid sub) := .inr ⟨rfl, fun _ => nofun⟩
theorem subInverter (devid : U32) (sub : Bytes) : Statement (.subInverter devid sub) := .inr ⟨rfl, fun _ => nofun⟩
theorem subEvent (devid : U32) (sub : Bytes) : Statement (.subEvent devid sub) := .inr ⟨rfl, fun _ => nofun⟩
theorem subOther (tag : U16) (devid : U32) (sub : Bytes) : Statement (.subOther tag devid sub) := .inr ⟨rfl, fun _ => nofun⟩
theorem crcInit : Statement .crcInit := .inl ⟨rfl, rfl⟩
theorem crcStep (b : Byte) : Statement (.crcStep b) := .inl ⟨rfl, rfl⟩
theorem crcRead : Statement .crcRead := .inl ⟨rfl, rfl⟩
theorem crcSum (bs : Bytes) : Statement (.crcSum bs) := .inl ⟨rfl, rfl⟩
theorem coverage (seq : U16) (src dst : U32) (fn : U16) (payload : Bytes) : Statement (.coverage seq src dst fn payload) :=
  .inl ⟨rfl, rfl⟩
theorem frameFormat (seq : U16) (src dst : U32) (fn : U16) (payload : Bytes) : Statement (.frameFormat seq src dst fn payload) :=
  .inl ⟨rfl, rfl⟩
theorem frameSend (seq : U16) (src dst : U32) (fn : U16) (payload : Bytes) : Statement (.frameSend seq src dst fn payload) :=
  .inl ⟨rfl, rfl⟩
theorem frameParse (body : Bytes) : Statement (.frameParse body) := .inl ⟨rfl, rfl⟩
theorem frameFilter (unit : Bytes) : Statement (.frameFilter unit) := .inl ⟨rfl, rfl⟩
theorem rxStepFramed (ctx : Option U16) : Statement (.rxStepFramed ctx) := .inl ⟨rfl, rfl⟩
theorem rxStepPassive (ctx : Option U16) : Statement (.rxStepPassive ctx) := .inl ⟨rfl, rfl⟩
theorem endOfStream : Statement .endOfStream := .inl ⟨rfl, rfl⟩
theorem deliver (unit : Bytes) (ctx : Option U16) : Statement (.deliver unit ctx) := .inl ⟨rfl, rfl⟩
theorem dispatch (fn : U16) (pay : Bytes) (ctx : Option U16) : Statement (.dispatch fn pay ctx) := .inl ⟨rfl, rfl⟩
theorem resolveCtx (ctx : Option U16) : Statement (.resolveCtx ctx) := .inl ⟨rfl, rfl⟩
theorem decNone (pay : Bytes) : Statement (.decNone pay) := .inl ⟨rfl, rfl⟩
theorem decOpmode (pay : Bytes) : Statement (.decOpmode pay) := .inl ⟨rfl, rfl⟩
theorem decStatus (pay : Bytes) : Statement (.decStatus pay) := .inl ⟨rfl, rfl⟩
theorem decParam (pay : Bytes) : Statement (.decParam pay) := .inl ⟨rfl, rfl⟩
theorem decVersion (pay : Bytes) : Statement (.decVersion pay) := .inl ⟨rfl, rfl⟩
theorem decOfflen (pay : Bytes) : Statement (.decOfflen pay) := .inl ⟨rfl, rfl⟩
theorem decLong (pay : Bytes) : Statement (.decLong pay) := .inl ⟨rfl, rfl⟩
theorem decValtype (pay : Bytes) : Statement (.decValtype pay) := .inl ⟨rfl, rfl⟩
theorem decParamval (pay : Bytes) : Statement (.decParamval pay) := .inl ⟨rfl, rfl⟩
theorem decTime (pay : Bytes) : Statement (.decTime pay) := .inl ⟨rfl, rfl⟩
theorem decStatusvec (pay : Bytes) : Statement (.decStatusvec pay) := .inl ⟨rfl, rfl⟩
theorem decDevdata (pay : Bytes) : Statement (.decDevdata pay) := .inl ⟨rfl, rfl⟩
theorem devNormid (devid : U32) : Statement (.devNormid devid) := .inl ⟨rfl, rfl⟩
theorem devOptLegacy (id : U32) (sub : Bytes) : Statement (.devOptLegacy id sub) := .inl ⟨rfl, rfl⟩
theorem devInverter (id : U32) (sub : Bytes) : Statement (.devInverter id sub) := .inl ⟨rfl, rfl⟩
theorem devOptCompact (id : U32) (sub : Bytes) : Statement (.devOptCompact id sub) := .inl ⟨rfl, rfl⟩
theorem devEvent (id : U32) (sub : Bytes) : Statement (.devEvent id sub) := .inl ⟨rfl, rfl⟩
theorem devSkip (tag : U16) (id : U32) (sublen : U16) : Statement (.devSkip tag id sublen) := .inl ⟨rfl, rfl⟩
theorem sysReset : Statement .sysReset := .inl ⟨rfl, rfl⟩
theorem sysReopen (stream : List Event) : Statement (.sysReopen stream) := .inl ⟨rfl, rfl⟩

end Sys2Proof.Laws.RowLevel
end

