-- ==== Sys2Proof/Tests/Slice0.lean ====
section
/-! SUPPORT. Tests: well-formedness refused check by check; decoding, a word for every constructor that has an encoding; each
instruction on one small state, the expected values from spec/95_test_vectors.md (the vector is named); and for every statement with
hypotheses a concrete state and operands that meet them, clause by clause. -/

open Sys2Proof Sys2Proof.Machine Sys2Proof.Claim

namespace Sys2Proof.Tests

/-- What a step leaves, seen through a projection; nothing when it stops. -/
def look {α : Type} (f : State → α) : Out → Option α
  | .next s => some (f s)
  | .fault _ => none
  | .refused _ => none

/-- The outcome kind and the value handed over. -/
def seen (o : Out) : Option (Code × Ret) := look (fun s => (s.stCode, s.ret)) o

/-- The outcome kind and its recorded values. -/
def told (o : Out) : Option (Code × Info) := look (fun s => (s.stCode, s.stInfo)) o

/-- What was seen was seen in a next state. -/
theorem of_look {α : Type} {f : State → α} {o : Out} {v : α} (h : look f o = some v) : ∃ t, o = .next t ∧ f t = v := by
  cases o with
  | next t => exact ⟨t, rfl, Option.some.inj h⟩
  | fault e => cases h
  | refused e => cases h

/-- Bytes as events. -/
def bytes (b : Bytes) : List Event := b.map .byte

/-- A run that ends in a next state satisfying a test. -/
def isNext (o : Out) : Bool := (look (fun _ => ()) o).isSome

def passiveCfg : Cfg := { Cfg.sample with mode := .passive }
def liveCfg : Cfg := { Cfg.sample with live := true }
def haltCfg : Cfg := { Cfg.sample with haltOnError := true }
def framedState : State := State.reset
def passiveState : State := State.resetOf passiveCfg
def scanState : State := { passiveState with rxWarm := false }
def liveState : State := State.resetOf liveCfg
def doneState : State := { State.reset with rxPhase := .done }
def desyncState : State := { State.reset with rxPhase := .desync, stRefused := true }
def haltState : State := { State.resetOf haltCfg with stHalt := true }

/-- V-FRM-1 and V-FRM-2, byte for byte. -/
def frm1 : Bytes :=
  [0x12, 0x34, 0x56, 0x79, 0x00, 0x00, 0xFF, 0xFF, 0x01, 0x00, 0x34, 0x12, 0x10, 0x7F, 0xFE, 0xFF, 0xFF, 0xFF, 0x00, 0x05,
    0xA4, 0x9F]
def frm2 : Bytes :=
  [0x12, 0x34, 0x56, 0x79, 0x04, 0x00, 0xFB, 0xFF, 0x34, 0x12, 0x44, 0x33, 0x22, 0x11, 0x88, 0x77, 0x66, 0x55, 0x80, 0x00,
    0xDE, 0xAD, 0xBE, 0xEF, 0xF1, 0x9E]

/-! ### Well-formedness: each check refuses an ill-formed term -/

theorem test_wf_sample : Cfg.sample.wf = true := by decide +kernel
/-- One ill-formed configuration for each check of `Cfg.wf`, in its order. -/
theorem test_wf_config_refused :
    ({ Cfg.sample with funcMap := (0x7F09, .plain .long) :: Cfg.sample.funcMap } : Cfg).wf = false ∧
    ({ Cfg.sample with funcMap := (0x0001, .plain .unknown) :: Cfg.sample.funcMap } : Cfg).wf = false ∧
    ({ Cfg.sample with funcMap := (0x0001, .plain .encrypted) :: Cfg.sample.funcMap } : Cfg).wf = false ∧
    ({ Cfg.sample with funcMap := (0x0001, .ctx) :: Cfg.sample.funcMap } : Cfg).wf = false ∧
    ({ Cfg.sample with funcMap := Cfg.sample.funcMap ++ [(0xFFFF, .plain .long)] } : Cfg).wf = false ∧
    ({ Cfg.sample with fns := { Cfg.sample.fns with postData := 0x0501 } } : Cfg).wf = false ∧
    ({ Cfg.sample with fns := { Cfg.sample.fns with upgradeWrite := 0x0500 } } : Cfg).wf = false ∧
    ({ Cfg.sample with fns := { Cfg.sample.fns with ctx := 0x0500 } } : Cfg).wf = false ∧
    ({ Cfg.sample with fns := { Cfg.sample.fns with enc1 := 0x0500 } } : Cfg).wf = false ∧
    ({ Cfg.sample with fns := { Cfg.sample.fns with enc2 := 0x0500 } } : Cfg).wf = false ∧
    ({ Cfg.sample with fns := { Cfg.sample.fns with enc2 := 0x003D } } : Cfg).wf = false ∧
    ({ Cfg.sample with opmodeNames := [(⟨0⟩, "A"), (⟨0⟩, "B")] } : Cfg).wf = false ∧
    ({ Cfg.sample with statusNames := [(0, "A"), (0, "B")] } : Cfg).wf = false ∧
    ({ Cfg.sample with compactBits := ⟨23, 10, 20⟩ } : Cfg).wf = false ∧
    ({ Cfg.sample with compactBits := ⟨0, 23, 20⟩ } : Cfg).wf = false ∧
    ({ Cfg.sample with compactBits := ⟨0, 10, 21⟩ } : Cfg).wf = false := by decide +kernel
/-- One ill-formed instruction for each check of `Instr.wf` but the payload bound. -/
theorem test_wf_instr_refused :
    (Instr.frame 2 0 0 0 0 0 [1] 0).wf Cfg.sample = false ∧
    (Instr.kTime 0x0500 []).wf Cfg.sample = false ∧
    (Instr.kUnknown 0x0500 []).wf Cfg.sample = false ∧
    (Instr.subOther 0x0080 0 []).wf Cfg.sample = false := by decide +kernel

/-- 65536 payload bytes fit no length field, 65535 do. -/
def long : Bytes := List.replicate 65536 0
def longest : Bytes := List.replicate 65535 0
theorem long_length : long.length = 65536 := List.length_replicate
theorem longest_length : longest.length = 65535 := List.length_replicate
theorem test_long_payload : payloadFits long = false := by
  rw [payloadFits, long_length]; rfl
theorem test_wf_message_long : (Instr.kTime 0x0580 long).wf Cfg.sample = false := by
  simp [Instr.wf, messageWf, test_long_payload]
theorem test_wf_sub_long : (Instr.subInverter 0 long).wf Cfg.sample = false := test_long_payload
theorem test_wf_other_long : (Instr.subOther 0x0099 0 long).wf Cfg.sample = false := by
  simp [Instr.wf, test_long_payload]
theorem test_wf_format_long : (Instr.frameFormat 0 0 0 0 long).wf Cfg.sample = false := test_long_payload
theorem test_wf_send_long : (Instr.frameSend 0 0 0 0 long).wf Cfg.sample = false := test_long_payload

/-- A configuration the tests use, with its well-formedness. -/
def okSample : { c : Cfg // c.wf = true } := ⟨Cfg.sample, by decide +kernel⟩

/-! ### Decoding: words written out from R81, R97, R101 -/

/-- A decoded command, or nothing. -/
def got (c : Cmd) : Option Instr := (decode Cfg.sample c).toOption

/-- The rejection, or nothing. -/
def rejected (c : Cmd) : Option DecodeError :=
  match decode Cfg.sample c with
  | .ok _ => none
  | .error e => some e

theorem test_decode_frame :
    got (.wire frm2) = some (.frame 0x0004 0xFFFB 0x1234 0x11223344 0x55667788 0x0080 [0xDE, 0xAD, 0xBE, 0xEF] 0x9EF1) := by
  decide +kernel
/-- Level 2: the function field little-endian, then the payload. -/
theorem test_decode_messages :
    got (.msg [0x01, 0x05] none) = some (.kZeroarg 0x0501 []) ∧
    got (.msg [0x3D, 0x00, 0xDE] none) = some (.kEncrypted 0x003D [0xDE]) ∧
    got (.msg [0x90, 0x00, 0x01, 0x00, 0x00, 0x00] (some 0x0012)) = some (.kCtx 0x0090 [0x01, 0x00, 0x00, 0x00] (some 0x0012)) ∧
    got (.msg [0x01, 0x7F, 0x01] none) = some (.kOpmode 0x7F01 [0x01]) ∧
    got (.msg [0x02, 0x7F, 0x05] none) = some (.kStatus 0x7F02 [0x05]) ∧
    got (.msg [0x03, 0x7F, 0x34] none) = some (.kParam 0x7F03 [0x34]) ∧
    got (.msg [0x04, 0x7F, 0x03] none) = some (.kVersion 0x7F04 [0x03]) ∧
    got (.msg [0x21, 0x00, 0x00] none) = some (.kOfflen 0x0021 [0x00]) := by decide +kernel
/-- Level 2, the other classes. -/
theorem test_decode_messages_more :
    got (.msg [0x05, 0x7F, 0x78] none) = some (.kLong 0x7F05 [0x78]) ∧
    got (.msg [0x06, 0x7F, 0x0A] none) = some (.kValtype 0x7F06 [0x0A]) ∧
    got (.msg [0x07, 0x7F, 0xEF] none) = some (.kParamval 0x7F07 [0xEF]) ∧
    got (.msg [0x80, 0x05, 0x00] none) = some (.kTime 0x0580 [0x00]) ∧
    got (.msg [0x08, 0x7F, 0x01] none) = some (.kStatusvec 0x7F08 [0x01]) ∧
    got (.msg [0x00, 0x05, 0x99] none) = some (.kDevdata 0x0500 [0x99]) ∧
    got (.msg [0xFF, 0xFF, 0x00] none) = some (.kUnknown 0xFFFF [0x00]) := by decide +kernel
/-- Level 3: tag, device id, length, sub-payload. -/
theorem test_decode_subs :
    got (.sub [0x00, 0x00, 0x01, 0x00, 0x90, 0x10, 0x02, 0x00, 0xAA, 0xBB]) = some (.subOptLegacy 0x10900001 [0xAA, 0xBB]) ∧
    got (.sub [0x80, 0x00, 0x34, 0x12, 0x90, 0x7F, 0x01, 0x00, 0xEC]) = some (.subOptCompact 0x7F901234 [0xEC]) ∧
    got (.sub [0x10, 0x00, 0x34, 0x12, 0x90, 0x7F, 0x00, 0x00]) = some (.subInverter 0x7F901234 []) ∧
    got (.sub [0x00, 0x03, 0x34, 0x12, 0x10, 0x7F, 0x02, 0x00, 0x00, 0x00]) = some (.subEvent 0x7F101234 [0x00, 0x00]) ∧
    got (.sub [0x99, 0x00, 0x01, 0x00, 0x00, 0x00, 0x01, 0x00, 0x07]) = some (.subOther 0x0099 0x00000001 [0x07]) := by decide +kernel

/-- The operations without an encoding are placed by name (R104). -/
def callsA : List Instr :=
  [.crcInit, .crcStep 1, .crcRead, .crcSum [1], .coverage 1 2 3 4 [5], .frameFormat 1 2 3 4 [5], .frameSend 1 2 3 4 [5],
    .frameParse [1], .frameFilter [1], .rxStepFramed none, .rxStepPassive none, .endOfStream, .deliver [1] none,
    .dispatch 1 [2] none, .resolveCtx none, .decNone [1], .decOpmode [1]]
def callsB : List Instr :=
  [.decStatus [1], .decParam [1], .decVersion [1], .decOfflen [1], .decLong [1], .decValtype [1], .decParamval [1],
    .decTime [1], .decStatusvec [1], .decDevdata [1], .devNormid 1, .devOptLegacy 1 [2], .devInverter 1 [2],
    .devOptCompact 1 [2], .devEvent 1 [2], .devSkip 1 2 3, .sysReset, .sysReopen [.fault]]
theorem test_decode_calls :
    callsA.length + callsB.length = 35 ∧ (∀ i ∈ callsA, got (.call i) = some i) ∧ ∀ i ∈ callsB, got (.call i) = some i := by
  decide +kernel

/-- Rejected by name. -/
theorem test_reject :
    rejected (.wire [0x12, 0x34, 0x56, 0x78]) = some .badMagic ∧
    rejected (.wire (frm2.take 25)) = some .shortFrame ∧
    rejected (.wire (frm2.take 19)) = some .shortFrame ∧
    rejected (.wire (frm2 ++ [0])) = some .trailingBytes ∧
    rejected (.msg [0x80] none) = some .shortMessage ∧
    rejected (.sub [0x99, 0x00, 0x01, 0x00, 0x00, 0x00, 0x02, 0x00, 0x07]) = some .shortSub ∧
    rejected (.sub [0x99, 0x00, 0x01, 0x00, 0x00, 0x00, 0x02]) = some .shortSub ∧
    rejected (.call (.kTime 0x0580 [])) = some .notAnOperation := by decide +kernel
theorem test_reject_long_message :
    decode Cfg.sample (.msg ([0x80, 0x05] ++ long) none) = .error .longPayload := by
  have h : ∀ l : Bytes, (([0x80, 0x05] : Bytes) ++ l).drop 2 = l := fun _ => rfl
  rw [decode, decodeMessage, h long, if_neg (by simp), if_pos (by rw [long_length, maxPayload]; decide)]
theorem test_reject_ill_formed_call :
    decode Cfg.sample (.call (.frameFormat 0 0 0 0 long)) = .error .illFormed := by
  rw [decode, if_neg (by decide), if_pos test_wf_format_long]

theorem test_table_words :
    decodeTableWord 32 0x12345679 = some (.frame 0 0 0 0 0 0 [] 0) ∧ decodeTableWord 16 0x0000 = some (.subOptLegacy 0 []) ∧
      decodeTableWord 16 0x0080 = some (.subOptCompact 0 []) ∧ decodeTableWord 16 0x0010 = some (.subInverter 0 []) ∧
      decodeTableWord 16 0x0300 = some (.subEvent 0 []) ∧ decodeTableWord 16 0x0099 = some (.subOther 0x0099 0 []) ∧
      decodeTableWord 32 0x12345678 = none ∧ decodeTableWord 8 0 = none := by decide +kernel
theorem test_fetch_word :
    told (step (State.reset.withFetchWord 32 0x12345679)) = some (.lengthMismatch, .lengths 0 0) ∧
      seen (step (State.reset.withFetchWord 16 0x0300)) = some (.ok, .record (.event 0 (.uncut []))) := by decide +kernel

/-- The passive configuration of the tests is well formed. -/
def okPassive : { c : Cfg // c.wf = true } := ⟨passiveCfg, by decide +kernel⟩

/-! ### The CRC unit (95_test_vectors.md 3.1) -/

theorem test_crc_init : look State.crcAcc (exec .crcInit { State.reset with crcAcc := 0 }) = some 0x5A5A := by decide +kernel
/-- The first step of the trace of V-CRC-10. -/
theorem test_crc_step : look State.crcAcc (exec (.crcStep 0x31) State.reset) = some 0xEF1B := by decide +kernel
/-- The last step of the trace of V-CRC-10. -/
theorem test_crc_step_last :
    look State.crcAcc (exec (.crcStep 0x39) { State.reset with crcAcc := 0x7AE2 }) = some 0x5B3A := by decide +kernel
/-- P1. -/
theorem test_crc_read : look State.ret (exec .crcRead { State.reset with crcAcc := 0x5B3A }) = some (.crc 0x5B3A) := by
  decide +kernel
/-- V-CRC-10 and V-CRC-4. -/
theorem test_crc_sum :
    look State.ret (exec (.crcSum [0x31, 0x32, 0x33, 0x34, 0x35, 0x36, 0x37, 0x38, 0x39]) State.reset) = some (.crc 0x5B3A) ∧
      look State.ret (exec (.crcSum [0xFF]) State.reset) = some (.crc 0x7B9A) := by decide +kernel
/-- V-CRC-11 and V-CRC-12. -/
theorem test_crc_flip :
    crcOf [0x12, 0x34, 0x11, 0x22, 0x33, 0x44, 0x55, 0x66, 0x77, 0x88, 0x00, 0x80, 0xDE, 0xAD, 0xBE, 0xEF] = 0x9EF1 ∧
      crcOf [0x13, 0x34, 0x11, 0x22, 0x33, 0x44, 0x55, 0x66, 0x77, 0x88, 0x00, 0x80, 0xDE, 0xAD, 0xBE, 0xEF] = 0x0E30 := by
  decide +kernel
/-- Section 3.1, the bit-serial form and the construction of the table. -/
theorem test_crc_forms :
    crcBitSerial 0x5A5A 0x31 = 0xEF1B ∧ crcConstruct 0x80 = 0xA001 ∧ crcConstruct 0xFF = 0x4040 ∧ crcMsbFirst [0x00] = 0x3BDA := by
  decide +kernel

/-- The live configuration of the tests is well formed. -/
def okLive : { c : Cfg // c.wf = true } := ⟨liveCfg, by decide +kernel⟩

/-! ### The frame unit (3.2 to 3.4) -/

/-- V-FRM-1: coverage. -/
theorem test_coverage :
    look State.ret (exec (.coverage 0x0001 0x7F101234 0xFFFFFFFE 0x0500 []) State.reset) =
      some (.bytes [0x00, 0x01, 0x7F, 0x10, 0x12, 0x34, 0xFF, 0xFF, 0xFF, 0xFE, 0x05, 0x00]) := by decide +kernel
/-- V-FRM-1 and V-FRM-2. -/
theorem test_format :
    look State.ret (exec (.frameFormat 0x0001 0x7F101234 0xFFFFFFFE 0x0500 []) State.reset) = some (.bytes frm1) ∧
      look State.ret (exec (.frameFormat 0x1234 0x11223344 0x55667788 0x0080 [0xDE, 0xAD, 0xBE, 0xEF]) State.reset) =
        some (.bytes frm2) := by decide +kernel
/-- P5: `TXS` after the send. -/
theorem test_send :
    look (fun s => (s.txs, s.txBusy)) (exec (.frameSend 0x0010 0xFFFFFFFE 0x7F101234 0x0012 [0xEF, 0x00]) State.reset) =
      some ([0x12, 0x34, 0x56, 0x79, 0x02, 0x00, 0xFD, 0xFF, 0x10, 0x00, 0xFE, 0xFF, 0xFF, 0xFF, 0x34, 0x12, 0x10, 0x7F, 0x12,
        0x00, 0xEF, 0x00, 0xAD, 0x23], false) := by decide +kernel
/-- V-PRS-1 and V-PRS-4. -/
theorem test_parse :
    seen (exec (.frameParse (frm2.drop 4)) State.reset) =
        some (.ok, .message 0x1234 0x11223344 0x55667788 0x0080 [0xDE, 0xAD, 0xBE, 0xEF]) ∧
      seen (exec (.frameParse ((frm2.drop 4).take 17)) State.reset) = some (.shortMessage, .empty) := by decide +kernel
/-- V-PRS-3, V-PRS-6 and V-PRS-7. -/
theorem test_parse_errors :
    told (exec (.frameParse ((frm2.drop 4).set 20 0xF0)) State.reset) = some (.checksumMismatch, .checksums 0x9EF0 0x9EF1) ∧
      told (exec (.frameParse (List.replicate 18 0)) State.reset) = some (.lengthMismatch, .lengths 0 0) ∧
      told (exec (.frameParse [0x08, 0x00, 0xF7, 0xFF, 0x07, 0x00, 0x01, 0x00, 0x00, 0x00, 0x02, 0x00, 0x00, 0x00, 0x80, 0x00, 0x09,
        0x09, 0x09, 0x09]) State.reset) = some (.sizeMismatch, .sizes 20 26) := by decide +kernel
/-- V-PRS-1 and V-PRS-2, as the frame row. -/
theorem test_frame_row :
    seen (exec (.frame 0x0004 0xFFFB 0x1234 0x11223344 0x55667788 0x0080 [0xDE, 0xAD, 0xBE, 0xEF] 0x9EF1) State.reset) =
        some (.ok, .message 0x1234 0x11223344 0x55667788 0x0080 [0xDE, 0xAD, 0xBE, 0xEF]) ∧
      told (exec (.frame 0x0000 0xFFFE 0x0003 0x7F101234 0xFFFFFFFE 0x0500 [] 0x27AF) State.reset) =
        some (.lengthMismatch, .lengths 0x0000 0xFFFE) := by decide +kernel
/-- V-FLT-1, V-FLT-3 and V-FLT-4. -/
theorem test_filter :
    seen (exec (.frameFilter (List.replicate 22 0)) State.reset) = some (.allZeroDiscard, .drop) ∧
      seen (exec (.frameFilter []) State.reset) = some (.ok, .pass) ∧
      seen (exec (.frameFilter (List.replicate 21 0 ++ [1])) State.reset) = some (.ok, .pass) := by decide +kernel

/-- The halting configuration of the tests is well formed. -/
def okHalt : { c : Cfg // c.wf = true } := ⟨haltCfg, by decide +kernel⟩

/-! ### The receivers (3.7) -/

/-- The last event of V-RX-1: the frame's last byte. -/
theorem test_rx_framed :
    seen (exec (.rxStepFramed none)
        { State.reset with rxs := [.byte 0x9F], rxBuf := frm1.take 21, rxPhase := .tail, rxNeed := 1 }) =
      some (.ok, .decoded 0x0500 (.devData [] 0)) := by decide +kernel
/-- P6 (a): the length field decides how many bytes are wanted. -/
theorem test_rx_framed_header :
    look (fun s => (s.rxPhase, s.rxNeed)) (exec (.rxStepFramed none)
        { State.reset with rxs := [.byte 0x00], rxBuf := [0x12, 0x34, 0x56, 0x79, 0x05, 0x00] ++ List.replicate 13 0, rxNeed := 1 }) =
      some (.tail, 7) := by decide +kernel
/-- V-RX-6, event 9: an empty unit after warm-up. -/
theorem test_rx_passive :
    seen (exec (.rxStepPassive none) { scanState with rxs := [.byte 0x79], rxBuf := [0x12, 0x34, 0x56] }) =
      some (.shortMessage, .empty) := by decide +kernel
/-- V-RX-6, event 5: the warm-up unit is dropped. -/
theorem test_rx_passive_warm :
    look (fun s => (s.stCode, s.rxWarm, s.rxBuf)) (exec (.rxStepPassive none)
        { passiveState with rxs := [.byte 0x79], rxBuf := [0x12, 0x12, 0x34, 0x56] }) =
      some (.warmupDiscard, false, []) := by decide +kernel
/-- V-RX-2. -/
theorem test_end_of_stream :
    look (fun s => (s.stCode, s.stPartial, s.rxPhase)) (exec .endOfStream { State.reset with rxBuf := frm1.take 10, rxNeed := 10 }) =
      some (.noMessage, 10, .done) := by decide +kernel
/-- V-RX-3 and V-FLT-4. -/
theorem test_deliver :
    told (exec (.deliver ([0x12, 0x34, 0x56, 0x78] ++ frm1.drop 4) none) State.reset) =
        some (.badMagic, .found [0x12, 0x34, 0x56, 0x78]) ∧
      told (exec (.deliver (List.replicate 21 0 ++ [1]) none) State.reset) = some (.badMagic, .found [0, 0, 0, 0]) := by
  decide +kernel
/-- V-RX-5, event 26, passive: a unit without its magic. -/
theorem test_deliver_passive :
    seen (exec (.deliver (frm1.drop 4) none) scanState) = some (.ok, .decoded 0x0500 (.devData [] 0)) := by decide +kernel
/-- V-RST-1. -/
theorem test_reset :
    look (fun s => (s.rxPhase, s.rxNeed, s.stCode, s.stRefused, s.crcAcc))
        (exec .sysReset { desyncState with rxNeed := 0, stCode := .badMagic, crcAcc := 7 }) =
      some (.head, 20, .ok, false, 0x5A5A) := by decide +kernel
theorem test_reopen :
    look (fun s => (s.rxPhase, s.rxs, s.txs)) (exec (.sysReopen [.fault]) { doneState with txs := [1] }) =
        some (.head, [.fault], []) ∧
      isNext (exec (.sysReopen []) State.reset) = false := by decide +kernel
/-- P2's variant: an error under `CFG.HALT_ON_ERROR` halts. -/
theorem test_halt :
    look (fun s => (s.stHalt, s.stRefused)) (exec (.frameParse ((frm2.drop 4).set 20 0xF0)) (State.resetOf haltCfg)) =
        some (true, false) ∧
      isNext (exec (.rxStepFramed none) haltState) = false := by decide +kernel

/-- The framed state of the tests may receive. -/
def canFramed : { s : State // receiverBlocked s = none } := ⟨framedState, by decide +kernel⟩

/-! ### The dispatcher (3.5) -/

/-- V-DSP-1 and V-DSP-5. -/
theorem test_dispatch :
    told (exec (.dispatch 0xFFFF [] none) State.reset) = some (.unknownFunction, .function 0xFFFF) ∧
      seen (exec (.dispatch 0x0090 [0x01, 0x00, 0x00, 0x00] (some 0x0012)) State.reset) =
        some (.ok, .decoded 0x0090 (.opMode ⟨1⟩ (some "MODE_B"))) := by decide +kernel
/-- V-DSP-7 and V-DSP-8. -/
theorem test_dispatch_ctx :
    seen (exec (.dispatch 0x0090 [0x01, 0x00, 0x00, 0x00] (some 0x0013)) State.reset) = some (.ok, .decoded 0x0090 (.long 1)) ∧
      seen (exec (.dispatch 0x0090 [0x07, 0x00, 0x00, 0x00] (some 0x0012)) State.reset) =
        some (.mapMiss, .decoded 0x0090 (.opMode ⟨7⟩ none)) := by decide +kernel
theorem test_resolve_ctx :
    look State.ret (exec (.resolveCtx (some 0x0012)) State.reset) = some (.cls .opmode) ∧
      look State.ret (exec (.resolveCtx none) State.reset) = some (.cls .long) := by decide +kernel
/-- V-DSP-2. -/
theorem test_none :
    look State.ret (exec (.decNone [0xDE]) State.reset) = some (.result .empty) ∧
      seen (exec (.kEncrypted 0x003D [0xDE]) State.reset) = some (.ok, .decoded 0x003D .empty) ∧
      seen (exec (.kZeroarg 0x0501 []) State.reset) = some (.ok, .decoded 0x0501 .empty) := by decide +kernel
/-- V-DEC-2 and V-DEC-3. -/
theorem test_opmode :
    seen (exec (.decOpmode [0xFF, 0xFF, 0xFF, 0xFF]) State.reset) = some (.mapMiss, .result (.opMode ⟨0xFFFFFFFF⟩ none)) ∧
      I32.toInt ⟨0xFFFFFFFF⟩ = -1 ∧
      told (exec (.kOpmode 0x7F01 [0x01, 0x00]) State.reset) = some (.payloadSize, .payloadSize (.cls .opmode) 2 4) := by
  decide +kernel
/-- V-DEC-4 and V-DEC-5. -/
theorem test_status :
    seen (exec (.decStatus [0x00, 0x00]) State.reset) = some (.ok, .result (.status 0 (some "STATUS_OK"))) ∧
      seen (exec (.kStatus 0x7F02 [0x05, 0x00]) State.reset) = some (.mapMiss, .decoded 0x7F02 (.status 5 none)) := by
  decide +kernel
/-- V-DEC-6. -/
theorem test_param :
    look State.ret (exec (.decParam [0x34, 0x12]) State.reset) = some (.result (.param 0x1234)) ∧
      seen (exec (.kParam 0x7F03 [0x34, 0x12]) State.reset) = some (.ok, .decoded 0x7F03 (.param 0x1234)) := by decide +kernel
/-- V-DEC-7. -/
theorem test_version :
    look State.ret (exec (.decVersion [0x03, 0x00, 0xB7, 0x08]) State.reset) = some (.result (.version 3 2231)) ∧
      seen (exec (.kVersion 0x7F04 [0x03, 0x00, 0xB7, 0x08]) State.reset) = some (.ok, .decoded 0x7F04 (.version 3 2231)) := by
  decide +kernel
/-- V-DEC-8, V-DEC-9 and V-DEC-10. -/
theorem test_offlen :
    look State.ret (exec (.decOfflen [0x00, 0x10, 0x00, 0x00, 0x02, 0x00, 0x00, 0x00, 0xAA, 0xBB]) State.reset) =
        some (.result (.offLen 0x00001000 2 [0xAA, 0xBB])) ∧
      told (exec (.kOfflen 0x0021 [0x00, 0x10, 0x00, 0x00, 0x02, 0x00, 0x00]) State.reset) =
        some (.payloadSize, .payloadSize (.cls .offlen) 7 8) ∧
      seen (exec (.kOfflen 0x0021 [0x00, 0x10, 0x00, 0x00, 0x02, 0x00, 0x00, 0x00]) State.reset) =
        some (.ok, .decoded 0x0021 (.offLen 0x00001000 2 [])) := by decide +kernel
/-- V-DEC-11. -/
theorem test_long :
    look State.ret (exec (.decLong [0x78, 0x56, 0x34, 0x12]) State.reset) = some (.result (.long 0x12345678)) ∧
      seen (exec (.kLong 0x7F05 [0x78, 0x56, 0x34, 0x12]) State.reset) = some (.ok, .decoded 0x7F05 (.long 0x12345678)) := by
  decide +kernel
/-- V-DEC-12. -/
theorem test_valtype :
    look State.ret (exec (.decValtype [0x0A, 0x00, 0x00, 0x00, 0x02, 0x00]) State.reset) = some (.result (.valType 10 2)) ∧
      seen (exec (.kValtype 0x7F06 [0x0A, 0x00, 0x00, 0x00, 0x02, 0x00]) State.reset) =
        some (.ok, .decoded 0x7F06 (.valType 10 2)) := by decide +kernel
/-- V-DEC-13. -/
theorem test_paramval :
    look State.ret (exec (.decParamval [0xEF, 0x00, 0x0A, 0x00, 0x00, 0x00]) State.reset) =
        some (.result (.paramVal 0x00EF 10)) ∧
      seen (exec (.kParamval 0x7F07 [0xEF, 0x00, 0x0A, 0x00, 0x00, 0x00]) State.reset) =
        some (.ok, .decoded 0x7F07 (.paramVal 0x00EF 10)) := by decide +kernel
/-- V-DEC-14. -/
theorem test_time :
    look State.ret (exec (.decTime [0x00, 0x00, 0x00, 0x65, 0xF0, 0xF1, 0xFF, 0xFF]) State.reset) =
        some (.result (.time 0x65000000 ⟨0xFFFFF1F0⟩)) ∧
      I32.toInt ⟨0xFFFFF1F0⟩ = -3600 ∧
      look State.stCode (exec (.kTime 0x0580 [0x00, 0x00, 0x00, 0x65, 0xF0, 0xF1, 0xFF, 0xFF]) State.reset) = some .ok := by
  decide +kernel
/-- V-DEC-15, V-DEC-16 and V-DEC-17. -/
theorem test_statusvec :
    look State.ret (exec (.decStatusvec []) State.reset) = some (.result (.statusVec [])) ∧
      seen (exec (.kStatusvec 0x7F08 [1, 0, 2, 0, 3, 0, 4, 0, 5, 0, 6, 0, 7, 0]) State.reset) =
        some (.ok, .decoded 0x7F08 (.statusVec [1, 2, 3, 4, 5, 6, 7])) ∧
      told (exec (.kStatusvec 0x7F08 [0x01, 0x00]) State.reset) =
        some (.payloadSize, .payloadSize (.cls .statusvec) 2 14) := by decide +kernel
/-- V-DSP-6 and V-DSP-1, as rows. -/
theorem test_ctx_and_unknown_rows :
    seen (exec (.kCtx 0x0090 [0x01, 0x00, 0x00, 0x00] none) State.reset) = some (.ok, .decoded 0x0090 (.long 1)) ∧
      told (exec (.kUnknown 0xFFFF [0x00]) State.reset) = some (.unknownFunction, .function 0xFFFF) := by decide +kernel

/-- The scanning state of the tests may receive. -/
def canScan : { s : State // receiverBlocked s = none } := ⟨scanState, by decide +kernel⟩

/-! ### Device data (3.6) -/

/-- V-ID-1 and V-ID-3. -/
theorem test_normid :
    look State.ret (exec (.devNormid 0x7F901234) State.reset) = some (.id 0x7F101234) ∧
      look State.ret (exec (.devNormid 0xFFFFFFFF) State.reset) = some (.id 0xFF7FFFFF) := by decide +kernel
/-- V-DEV-2, by name and as the row. -/
def dev2 : Bytes :=
  [0x99, 0x00, 0x01, 0x00, 0x00, 0x00, 0x03, 0x00, 0x01, 0x02, 0x03, 0x00, 0x00, 0x01, 0x00, 0x90, 0x10, 0x02, 0x00, 0xAA, 0xBB,
    0x10, 0x00, 0x34, 0x12, 0x90, 0x7F, 0x00, 0x00]
theorem test_devdata :
    look (fun s => (s.ret, s.stSub, s.stTags)) (exec (.decDevdata dev2) State.reset) =
        some (.result (.devData [.optLegacy 0x10100001 (.uncut [0xAA, 0xBB]), .inverter 0x7F101234 (.uncut [])] 1), 1,
          [0x0099]) ∧
      look State.stCode (exec (.kDevdata 0x0500 dev2) { State.reset with stCode := .mapMiss }) = some .ok := by decide +kernel
/-- V-DEV-7, V-DEV-8 and V-DEV-9. -/
theorem test_devdata_truncated :
    told (exec (.decDevdata [0x99, 0x00, 0x01, 0x00, 0x00, 0x00]) State.reset) =
        some (.subRecordTruncated, .truncated 0 6 8) ∧
      told (exec (.decDevdata [0x99, 0x00, 0x01, 0x00, 0x00, 0x00, 0x03, 0x00, 0x01, 0x02]) State.reset) =
        some (.subRecordTruncated, .truncated 0 2 3) ∧
      told (exec (.decDevdata [0x99, 0x00, 0x01, 0x00, 0x00, 0x00, 0x00, 0x00, 0x00]) State.reset) =
        some (.subRecordTruncated, .truncated 8 1 8) := by decide +kernel
/-- V-DEV-3 and V-DEV-4. -/
theorem test_opt_compact :
    look State.ret (exec (.devOptCompact 0x7F101234
        [0x00, 0x00, 0x00, 0x65, 0x10, 0x00, 0x40, 0x81, 0x2C, 0x19, 0x90, 0x01, 0xEC]) State.reset) =
        some (.record (.optCompact 0x7F101234 0x65000000 16 320 800 402 400 ⟨0xEC⟩ 0)) ∧
      look State.ret (exec (.subOptCompact 0x7F901234
        [0x00, 0x00, 0x00, 0x00, 0x00, 0x00, 0xFF, 0xFF, 0xFF, 0xFF, 0xFF, 0xFF, 0x80]) State.reset) =
        some (.record (.optCompact 0x7F101234 0 0 1023 1023 4095 65535 ⟨0x80⟩ 0)) ∧
      I8.toInt ⟨0xEC⟩ = -20 ∧ I8.toInt ⟨0x80⟩ = -128 := by decide +kernel
/-- V-DEV-10. -/
theorem test_opt_compact_short :
    told (exec (.devOptCompact 0 (List.replicate 12 0)) State.reset) =
      some (.payloadSize, .payloadSize .sOptCompact 12 13) := by decide +kernel
/-- V-DEV-5: the three bit fields do not overlap. -/
theorem test_compact_fields :
    compactRecord .standard 0 [0, 0, 0, 0, 0, 0, 0xFF, 0x03, 0x00, 0x00, 0, 0, 0] = .optCompact 0 0 0 1023 0 0 0 ⟨0⟩ 0 ∧
      compactRecord .standard 0 [0, 0, 0, 0, 0, 0, 0x00, 0xFC, 0x0F, 0x00, 0, 0, 0] = .optCompact 0 0 0 0 1023 0 0 ⟨0⟩ 0 ∧
      compactRecord .standard 0 [0, 0, 0, 0, 0, 0, 0x00, 0x00, 0xF0, 0xFF, 0, 0, 0] = .optCompact 0 0 0 0 0 4095 0 ⟨0⟩ 0 := by
  decide +kernel
/-- V-DEV-1's two records, by name and as rows. -/
theorem test_legacy_and_inverter :
    look State.ret (exec (.devOptLegacy 0x10100001 [0xAA, 0xBB]) State.reset) =
        some (.record (.optLegacy 0x10100001 (.uncut [0xAA, 0xBB]))) ∧
      look State.ret (exec (.subOptLegacy 0x10900001 [0xAA, 0xBB]) State.reset) =
        some (.record (.optLegacy 0x10100001 (.uncut [0xAA, 0xBB]))) ∧
      look State.ret (exec (.devInverter 0x7F101234 []) State.reset) = some (.record (.inverter 0x7F101234 (.uncut []))) ∧
      look State.ret (exec (.subInverter 0x7F901234 []) State.reset) = some (.record (.inverter 0x7F101234 (.uncut []))) := by
  decide +kernel
/-- V-DEV-11. -/
theorem test_event :
    look State.ret (exec (.devEvent 0x7F101234 [0x00, 0x00]) State.reset) =
        some (.record (.event 0x7F101234 (.uncut [0x00, 0x00]))) ∧
      look State.ret (exec (.subEvent 0x7F101234 [0x00, 0x00]) State.reset) =
        some (.record (.event 0x7F101234 (.uncut [0x00, 0x00]))) := by decide +kernel
/-- A layout given (log entry 8), its fields worked out by hand from R53, R99 and R223. -/
theorem test_layout :
    look State.ret (exec (.devInverter 5 [0x01, 0x02, 0x03, 0x04, 0x34, 0x12, 0x90, 0x7F, 0x05, 0x06, 0x07])
        { State.reset with cfg := { Cfg.sample with layoutInverter := some [.u32, .devId, .u16, .u8] } }) =
      some (.record (.inverter 5 (.cut [.b4 0x04030201, .b4 0x7F101234, .b2 0x0605, .b1 0x07]))) := by decide +kernel
/-- W2: an unknown tag is counted and recorded. -/
theorem test_skip :
    look (fun s => (s.stSub, s.stTags)) (exec (.devSkip 0x0099 1 3) { State.reset with stSub := 1, stTags := [0x0001] }) =
        some (2, [0x0001, 0x0099]) ∧
      look (fun s => (s.stTags, s.ret)) (exec (.subOther 0x0099 1 [1, 2, 3]) State.reset) = some ([0x0099], .none) := by decide +kernel

/-! ### Witnesses: concrete states and operands that meet the hypotheses of each statement, clause by clause -/

theorem witness_CrcRegisterOperations : State.reset.crcAcc = 0x5A#8 ++ 0x5A#8 := rfl
theorem witness_CrcSumIsTheFoldOfSteps :
    ∃ t u, exec (.crcSum [0x31]) State.reset = .next t ∧ exec (.crcStep 0x32) t = .next u := ⟨_, _, rfl, rfl⟩
theorem witness_CrcIsAffine : ([0x12, 0x34] : Bytes).length = ([0xFF, 0x00] : Bytes).length := rfl
/-- The first and the last covered bit of a frame with one payload byte. -/
theorem witness_SingleBitFlipIsRejected :
    (([0xDE] : Bytes).length ≤ 65535 ∧ 4 ≤ 4 ∧ 4 < 16 + ([0xDE] : Bytes).length ∧ 0 < 8) ∧
      (4 ≤ 16 ∧ 16 < 16 + ([0xDE] : Bytes).length ∧ 7 < 8) := by decide
/-- V-FRM-2. -/
theorem witness_FormatBuildsTheFrame :
    ([0xDE, 0xAD, 0xBE, 0xEF] : Bytes).length = (0x00#8 ++ 0x04#8 : U16).toNat ∧
      crcOf ([0x12, 0x34, 0x11, 0x22, 0x33, 0x44, 0x55, 0x66, 0x77, 0x88, 0x00, 0x80] ++ [0xDE, 0xAD, 0xBE, 0xEF]) =
        0x9E#8 ++ 0xF1#8 := by decide +kernel
theorem witness_SendAppendsOneWholeFrame :
    (State.reset.stHalt = false ∧ longest.length ≤ 65535) ∧ haltState.stHalt = true ∧
      (State.reset.stHalt = false ∧ 65535 < long.length) := by
  rw [long_length, longest_length]; decide
/-- V-PRS-4, V-PRS-6, V-PRS-7, V-PRS-3, V-PRS-1: one body for each of the five ends. -/
theorem witness_ParseFollowsItsContract :
    ((frm2.drop 4).take 17).length < 18 ∧
    (18 ≤ (List.replicate 18 0 : Bytes).length ∧ le16 (List.replicate 18 0) 0 ≠ ~~~(le16 (List.replicate 18 0) 2)) ∧
    (let b : Bytes := [8, 0, 0xF7, 0xFF, 7, 0, 1, 0, 0, 0, 2, 0, 0, 0, 0x80, 0, 9, 9, 9, 9];
      18 ≤ b.length ∧ le16 b 0 = ~~~(le16 b 2) ∧ b.length ≠ 18 + (le16 b 0).toNat) ∧
    (let b := (frm2.drop 4).set 20 0xF0;
      le16 b 0 = ~~~(le16 b 2) ∧ b.length = 18 + (le16 b 0).toNat ∧ le16 b 20 ≠ 0x9EF1) ∧
    (let b := frm2.drop 4;
      le16 b 0 = ~~~(le16 b 2) ∧ b.length = 18 + (le16 b 0).toNat ∧ le16 b 20 = 0x9EF1) := by decide +kernel
/-- The most bytes a payload has, and none. -/
theorem witness_ParseInvertsFormat : longest.length ≤ 65535 ∧ ([] : Bytes).length ≤ 65535 := by
  rw [longest_length]; decide
theorem witness_AcceptedBodyIsAFormattedFrame :
    ∃ t, exec (.frameParse (frm1.drop 4)) State.reset = .next t ∧ t.ret = .message 0x0001 0x7F101234 0xFFFFFFFE 0x0500 [] :=
  of_look (f := State.ret) (by decide +kernel)
theorem witness_FilterDropsAllZeroUnits :
    (([0] : Bytes) ≠ [] ∧ ∀ b ∈ ([0] : Bytes), b = 0) ∧ ([] : Bytes) = [] ∧ ∃ b ∈ ([0, 1] : Bytes), b ≠ 0 := by decide
/-- V-PRS-2, V-PRS-3 and V-PRS-1, by their fields. -/
theorem witness_FrameRowIsParsed :
    (([] : Bytes).length = (0x0000 : U16).toNat ∧ (0xFFFE : U16) ≠ ~~~0x0000) ∧
    (([0xDE, 0xAD, 0xBE, 0xEF] : Bytes).length = (0x0004 : U16).toNat ∧ (0xFFFB : U16) = ~~~0x0004 ∧
      (0x9EF0 : U16) ≠ crcOf (coverageOf 0x1234 0x11223344 0x55667788 0x0080 [0xDE, 0xAD, 0xBE, 0xEF]) ∧
      (0x9EF1 : U16) = crcOf (coverageOf 0x1234 0x11223344 0x55667788 0x0080 [0xDE, 0xAD, 0xBE, 0xEF])) := by decide +kernel

/-- A frame without payload, on the stream of a receiver at the start of a unit. -/
def frameState : State := { framedState with rxs := bytes (formatOf 1 2 3 0x0080 []) ++ [.fault] }
def canFrame : { s : State // receiverBlocked s = none } := ⟨frameState, by decide +kernel⟩

theorem witness_FramedReceiverStep :
    (framedState.stHalt = false ∧ framedState.cfg.mode = .framed ∧ framedState.rxPhase = .head) ∧
    (let s := { framedState with rxs := [.byte 0x12], rxNeed := 2 };
      s.rxs = .byte 0x12 :: [] ∧ 2 ≤ s.rxNeed) ∧
    (let s := { framedState with rxs := [.byte 0x12], rxNeed := 1 };
      s.rxs = .byte 0x12 :: [] ∧ s.rxNeed = 1 ∧ s.rxPhase = .head) ∧
    (let s := { framedState with rxs := [.byte 0x12], rxNeed := 1, rxPhase := .tail };
      s.stHalt = false ∧ s.cfg.mode = .framed ∧ s.rxs = .byte 0x12 :: [] ∧ s.rxNeed = 1 ∧ s.rxPhase = .tail) ∧
    (let s := { liveState with rxs := [.empty] };
      s.stHalt = false ∧ s.cfg.mode = .framed ∧ s.rxPhase = .head ∧ s.rxs = .empty :: [] ∧ s.cfg.live = true) ∧
    (let s := { framedState with rxs := [.fault] }; s.rxs = .fault :: []) ∧
    (let s := { framedState with rxs := [.empty] }; s.rxs = .empty :: [] ∧ s.cfg.live = false) ∧
    (let s := { liveState with rxs := [] };
      s.stHalt = false ∧ s.cfg.mode = .framed ∧ s.rxPhase = .head ∧ s.rxs = [] ∧ s.cfg.live = true) ∧
    (let s := State.reset;
      s.stHalt = false ∧ s.cfg.mode = .framed ∧ s.rxPhase = .head ∧ s.rxs = [] ∧ s.cfg.live = false) := by decide
/-- Three bytes of a magic followed by its fourth, and by another. -/
theorem witness_PassiveReceiverStep :
    (scanState.stHalt = false ∧ scanState.cfg.mode = .passive ∧ scanState.rxPhase = .scan) ∧
    (¬ ∃ unit, ([0x12, 0x34, 0x56] : Bytes) ++ [0x78] = unit ++ [0x12, 0x34, 0x56, 0x79]) ∧
    (([0x12, 0x34, 0x56] : Bytes) ++ [0x79] = [] ++ [0x12, 0x34, 0x56, 0x79] ∧ passiveState.rxWarm = true) ∧
    (([0x12, 0x34, 0x56] : Bytes) ++ [0x79] = [] ++ [0x12, 0x34, 0x56, 0x79] ∧ scanState.rxWarm = false) ∧
    (let s := { State.resetOf { passiveCfg with live := true } with rxs := [.empty] };
      s.cfg.mode = .passive ∧ s.rxPhase = .scan ∧ s.rxs = .empty :: [] ∧ s.cfg.live = true) ∧
    (let s := { scanState with rxs := [.fault] }; s.rxs = .fault :: []) ∧
    (let s := { scanState with rxs := [.empty] }; s.rxs = .empty :: [] ∧ s.cfg.live = false) ∧
    (let s := State.resetOf { passiveCfg with live := true };
      s.stHalt = false ∧ s.cfg.mode = .passive ∧ s.rxPhase = .scan ∧ s.rxs = [] ∧ s.cfg.live = true) ∧
    (let s := { scanState with rxs := [] };
      s.stHalt = false ∧ s.cfg.mode = .passive ∧ s.rxPhase = .scan ∧ s.rxs = [] ∧ s.cfg.live = false) := by
  refine ⟨by decide, ?_, by decide, by decide, by decide, by decide, by decide, by decide, by decide⟩
  exact fun h => absurd ((endsWithMagic_iff _).mpr h) (by decide)
theorem witness_EndOfStreamDiscards : CanReceive framedState ∧ CanReceive scanState := ⟨canFramed.2, canScan.2⟩
theorem witness_DeliverPipeline :
    CanReceive framedState ∧ CanReceive scanState ∧
    (([0] : Bytes) ≠ [] ∧ ∀ b ∈ ([0] : Bytes), b = 0) ∧
    ((∃ b ∈ ([0x12, 0x34, 0x56, 0x78] : Bytes), b ≠ 0) ∧ framedState.cfg.mode = .framed ∧
      ([0x12, 0x34, 0x56, 0x78] : Bytes).take 4 ≠ [0x12, 0x34, 0x56, 0x79]) ∧
    (∃ t, exec (.frameParse []) framedState = .next t ∧ t.ret = .empty) ∧
    (∃ t, exec (.frameParse (List.replicate 18 0)) framedState = .next t ∧ t.ret = .none) ∧
    (scanState.cfg.mode = .passive ∧ (∃ b ∈ frm1.drop 4, b ≠ 0) ∧
      ∃ t, exec (.frameParse (frm1.drop 4)) scanState = .next t ∧
        t.ret = .message 0x0001 0x7F101234 0xFFFFFFFE 0x0500 []) ∧
    (framedState.cfg.resolveClass 0x0080 none = .zeroarg ∧ longest.length ≤ 65535) := by
  refine ⟨canFramed.2, canScan.2, by decide, by decide, of_look (f := State.ret) (by decide +kernel),
    of_look (f := State.ret) (by decide +kernel), ⟨rfl, by decide +kernel, of_look (f := State.ret) (by decide +kernel)⟩, ?_⟩
  rw [longest_length]; decide +kernel
theorem witness_ReceiverIsNotEnabled :
    haltState.stHalt = true ∧ (framedState.stHalt = false ∧ framedState.cfg.mode = .framed) ∧
      (passiveState.stHalt = false ∧ passiveState.cfg.mode = .passive) ∧
      (doneState.stHalt = false ∧ doneState.cfg.mode = .framed ∧ doneState.rxPhase = .done) ∧
      (let s := { passiveState with rxPhase := .done }; s.stHalt = false ∧ s.cfg.mode = .passive ∧ s.rxPhase = .done) ∧
      (desyncState.stHalt = false ∧ desyncState.cfg.mode = .framed ∧ desyncState.rxPhase = .desync) := by decide
theorem witness_StreamReadTakesBytesInOrder :
    streamRead false 1 [.byte 5] [] = .bytes [5] [] ∧ streamRead false 2 [.byte 5] [] = .eos 1 [] ∧
      ([5] : Bytes).length < 2 ∧
      (streamRead true 2 (([5] : Bytes).map Event.byte ++ [.byte 6]) [] = .bytes [5, 6] [] ∧ ([5] : Bytes).length < 2) := by
  decide +kernel
/-- The reset state with a stream has the invariant. -/
theorem witness_invariant (events : List Event) : Inv { State.reset with rxs := events } where
  config := okSample.2
  receiver := ⟨rfl, (by decide : 0 < 20), rfl⟩
  payload := Nat.zero_le _
  tags := rfl
  warm := fun h => by cases h
  code := ⟨nofun, nofun⟩
  info := rfl
  checksums := fun h => by cases h
  halt := fun h => by cases h
  idle := rfl
theorem witness_FramedHeaderIsAStreamRead :
    (let s := { State.reset with rxs := bytes (frm1.take 20) };
      Inv s ∧ s.port = [] ∧ s.stHalt = false ∧ s.rxPhase = .head ∧
        streamRead s.cfg.live s.rxNeed s.rxs [] = .bytes (frm1.take 20) []) :=
  ⟨witness_invariant _, rfl, rfl, rfl, by decide +kernel⟩
theorem witness_FramedReceiverDeliversAFrame :
    ([] : Bytes).length ≤ 65535 ∧ frameState.port = [] ∧ frameState.stHalt = false ∧ frameState.cfg.mode = .framed ∧
      frameState.rxPhase = .head ∧ frameState.rxNeed = 20 ∧ frameState.rxBuf = [] ∧
      frameState.rxs = (formatOf 1 2 3 0x0080 []).map Event.byte ++ [.fault] :=
  ⟨by decide, rfl, rfl, rfl, rfl, rfl, rfl, rfl⟩
theorem witness_PassiveReceiverDeliversAFrame :
    (let s :=
      { scanState with
        rxs := ((formatOf 1 2 3 0x0080 []).drop 4 ++ [0x12, 0x34, 0x56, 0x79]).map Event.byte ++ [Event.fault] };
      s.port = [] ∧ s.stHalt = false ∧ s.cfg.mode = .passive ∧ s.rxPhase = .scan ∧ s.rxWarm = false ∧ s.rxBuf = [] ∧
        noMagic ((formatOf 1 2 3 0x0080 []).drop 4 ++ [0x12, 0x34, 0x56]) = true) :=
  ⟨rfl, rfl, rfl, rfl, rfl, rfl, by decide +kernel⟩

theorem witness_ContextSelectsTheDecoder :
    some 0x0012 = some State.reset.cfg.ctxCmd ∧ none ≠ some State.reset.cfg.ctxCmd ∧ State.reset.cfg.classOf 0x0090 = .ctx ∧
      State.reset.cfg.opmodeName ⟨0x00#8 ++ (0x00#8 ++ (0x00#8 ++ 0x01#8))⟩ = some "MODE_B" ∧
      State.reset.cfg.ctxDefault = .long ∧ State.reset.cfg.classOf 0x0580 ≠ .ctx := by decide +kernel
theorem witness_DispatchFollowsTheClass :
    State.reset.cfg.classOf 0x0580 = .plain .time ∧ decoderCall .time [] = some (.decTime []) ∧
      State.reset.cfg.classOf 0x1234 = .plain .unknown ∧
      (State.reset.cfg.classOf 0x0090 = .ctx ∧
        exec (.resolveCtx (some 0x0012)) State.reset = .next { State.reset with ret := .cls .opmode }) :=
  ⟨by decide +kernel, rfl, by decide +kernel, by decide +kernel, rfl⟩
theorem witness_RowsAreArmsOfDispatch :
    State.reset.cfg.classOf 0x0580 = .plain .time ∧ State.reset.cfg.classOf 0x0090 = .ctx ∧
      some 0x0012 = some State.reset.cfg.ctxCmd ∧ none ≠ some State.reset.cfg.ctxCmd ∧
      State.reset.cfg.opmodeName ⟨0x00#8 ++ (0x00#8 ++ (0x00#8 ++ 0x01#8))⟩ = some "MODE_B" := by decide +kernel
theorem witness_UnknownFunctionIsRaised :
    State.reset.cfg.classOf 0x1234 = .plain .unknown ∧
      (let c := { Cfg.sample with ctxDefault := .unknown };
        c.wf = true ∧ c.classOf 0x0090 = .ctx ∧ none ≠ some c.ctxCmd ∧ c.ctxDefault = .unknown) := by decide +kernel
/-- One byte too few and one too many, for each layout. -/
theorem witness_FixedLayoutDecoders :
    (([1] : Bytes).length ≠ 2 ∧ ([1, 2, 3] : Bytes).length ≠ 2) ∧
    (([1, 2, 3] : Bytes).length ≠ 4 ∧ ([1, 2, 3, 4, 5] : Bytes).length ≠ 4) ∧
    (([1, 2, 3, 4, 5] : Bytes).length ≠ 6 ∧ ([1, 2, 3, 4, 5, 6, 7] : Bytes).length ≠ 6) ∧
    (([1, 2, 3, 4, 5, 6, 7] : Bytes).length ≠ 8 ∧ ([1, 2, 3, 4, 5, 6, 7, 8, 9] : Bytes).length ≠ 8) := by decide
theorem witness_NameTableDecoders :
    State.reset.cfg.opmodeName ⟨0x00#8 ++ (0x00#8 ++ (0x00#8 ++ 0x01#8))⟩ = some "MODE_B" ∧
      State.reset.cfg.opmodeName ⟨0xFF#8 ++ (0xFF#8 ++ (0xFF#8 ++ 0xFF#8))⟩ = none ∧ ([1, 2, 3] : Bytes).length ≠ 4 ∧
      State.reset.cfg.statusName (0x00#8 ++ 0x00#8) = some "STATUS_OK" ∧ State.reset.cfg.statusName (0x00#8 ++ 0x05#8) = none ∧
      ([1] : Bytes).length ≠ 2 := by decide +kernel
theorem witness_VariableLayoutDecoders :
    ([1, 2, 3, 4, 5, 6, 7] : Bytes).length < 8 ∧ (([1] : Bytes).length ≠ 0 ∧ ([1] : Bytes).length ≠ 14) ∧
      (List.replicate 13 0 : Bytes).length ≠ 14 ∧ (List.replicate 15 0 : Bytes).length ≠ 14 := by decide
theorem witness_NameTableAndVariableRows :
    State.reset.cfg.opmodeName ⟨0x00#8 ++ (0x00#8 ++ (0x00#8 ++ 0x00#8))⟩ = some "MODE_A" ∧
      State.reset.cfg.opmodeName ⟨0x00#8 ++ (0x00#8 ++ (0x00#8 ++ 0x07#8))⟩ = none ∧
      State.reset.cfg.statusName (0x00#8 ++ 0x00#8) = some "STATUS_OK" ∧
      State.reset.cfg.statusName (0x00#8 ++ 0x05#8) = none := by decide +kernel
theorem witness_EmptyResultWithoutReading :
    State.reset.cfg.classOf 0x0501 = .plain .zeroarg ∧ State.reset.cfg.classOf 0x003D = .plain .encrypted := by decide +kernel
theorem witness_WrongPayloadSizeIsRefused :
    (State.reset.cfg.classOf 0x7F01 = .plain .opmode ∧ State.reset.cfg.classOf 0x7F02 = .plain .status ∧
      State.reset.cfg.classOf 0x7F03 = .plain .param ∧ State.reset.cfg.classOf 0x7F04 = .plain .version ∧
      State.reset.cfg.classOf 0x7F05 = .plain .long ∧ State.reset.cfg.classOf 0x7F06 = .plain .valtype ∧
      State.reset.cfg.classOf 0x7F07 = .plain .paramval ∧ State.reset.cfg.classOf 0x0580 = .plain .time) ∧
    (State.reset.cfg.classOf 0x7F08 = .plain .statusvec ∧ State.reset.cfg.classOf 0x0021 = .plain .offlen ∧
      State.reset.cfg.classOf 0x0501 = .plain .zeroarg ∧ State.reset.cfg.classOf 0x003D = .plain .encrypted) ∧
    ([1, 2, 3] : Bytes).length ≠ 4 ∧ ([1, 2, 3] : Bytes).length ≠ 2 ∧ ([1, 2, 3, 4, 5] : Bytes).length ≠ 6 ∧
      ([1, 2, 3, 4, 5, 6, 7] : Bytes).length ≠ 8 ∧ (([1] : Bytes).length ≠ 0 ∧ ([1] : Bytes).length ≠ 14) ∧
      ([1, 2, 3, 4, 5, 6, 7] : Bytes).length < 8 := by decide +kernel
theorem witness_DispatchReadsNoMessageRegister : ∃ t, exec (.dispatch 0x0501 [] none) State.reset = .next t := ⟨_, rfl⟩
theorem witness_SubDecodersWithoutLayout :
    State.reset.cfg.layoutOptLegacy = none ∧ State.reset.cfg.layoutInverter = none ∧ State.reset.cfg.layoutEvent = none := by
  decide
/-- One layout with every kind of field, a sub-payload of its size and one that is a byte too short. -/
theorem witness_LayoutsAreApplied :
    let l : Layout := [.u32, .devId, .u16, .u8]
    let s := State.resetOf
      { Cfg.sample with layoutOptLegacy := some l, layoutInverter := some l, layoutEvent := some l };
    (s.cfg.layoutOptLegacy = some l ∧ s.cfg.layoutInverter = some l ∧ s.cfg.layoutEvent = some l) ∧
      (List.replicate 11 0 : Bytes).length = l.size ∧ (List.replicate 10 0 : Bytes).length ≠ l.size := by decide
theorem witness_CompactRecordFields :
    State.reset.cfg.compactBits = ⟨0, 10, 20⟩ ∧ (List.replicate 12 0 : Bytes).length < 13 := by decide
theorem witness_TemperatureIsSignedAndScaled : (0x7F : Byte).toNat < 128 ∧ 128 ≤ (0x80 : Byte).toNat := by decide
theorem witness_noLayouts : noLayouts State.reset := ⟨rfl, rfl, rfl⟩
theorem witness_SubRecordRows :
    noLayouts State.reset ∧ 13 ≤ (List.replicate 13 0 : Bytes).length ∧ (List.replicate 12 0 : Bytes).length < 13 ∧
      ((0x0099 : U16) ≠ 0x0000 ∧ (0x0099 : U16) ≠ 0x0080 ∧ (0x0099 : U16) ≠ 0x0010 ∧ (0x0099 : U16) ≠ 0x0300) :=
  ⟨witness_noLayouts, by decide, by decide, by decide⟩
/-- The longest sub-payload and the shortest compact one. -/
theorem witness_subsFit : subsFit [(0x0099, 1, longest), (0x0080, 2, List.replicate 13 0)] := by
  intro x hx
  simp only [List.mem_cons, List.not_mem_nil, or_false] at hx
  rcases hx with rfl | rfl
  · exact ⟨by rw [longest_length], fun h => absurd h (by decide)⟩
  · exact ⟨by decide, fun _ => by decide⟩
theorem witness_WalkerDecodesEveryRun :
    noLayouts State.reset ∧ subsFit [(0x0099, 1, longest), (0x0080, 2, List.replicate 13 0)] :=
  ⟨witness_noLayouts, witness_subsFit⟩
theorem witness_WalkerRefusesTruncation :
    (noLayouts State.reset ∧ subsFit [(0x0099, 1, longest), (0x0080, 2, List.replicate 13 0)]) ∧
    (0 < ([0x99] : Bytes).length ∧ (List.replicate 7 0 : Bytes).length < 8) ∧
    (let piece : Bytes := [0x99, 0, 1, 0, 0, 0, 1, 0];
      8 ≤ piece.length ∧ piece.length < 8 + (le16 piece 6).toNat) ∧
    ((List.replicate 12 0 : Bytes).length < 13 ∧
      ([0x80, 0, 1, 0, 0, 0, 0, 0, 7] : Bytes) = encodeSub 0x0080 1 [] ++ [7]) :=
  ⟨witness_WalkerDecodesEveryRun, by decide, by decide +kernel, by decide +kernel⟩
theorem witness_WalkerIsAHomomorphism :
    ∃ t u, exec (.decDevdata [0x10, 0, 1, 0, 0, 0, 0, 0]) State.reset = .next t ∧
      t.ret = .result (.devData [.inverter 1 (.uncut [])] 0) ∧
      exec (.decDevdata [0x99, 0, 1, 0, 0, 0, 0, 0]) State.reset = .next u ∧ u.ret = .result (.devData [] 1) :=
  ⟨_, _, rfl, by decide +kernel, rfl, by decide +kernel⟩
theorem witness_ResetWritesItsTable :
    (framedState.cfg.mode = .framed ∧ passiveState.cfg.mode = .passive) ∧
    (let s := { haltState with stRefused := true, rxPhase := .desync };
      (∃ t, exec .crcInit s = .next t) ∧ Instr.crcInit ≠ .sysReset ∧ s.stHalt = true ∧ s.stRefused = true ∧
        s.rxPhase = .desync) := ⟨by decide, ⟨_, rfl⟩, by decide, rfl, rfl, rfl⟩
theorem witness_ReopenRestartsTheReceiver :
    (doneState.rxPhase = .done ∧ doneState.cfg.mode = .framed) ∧
      (let s := { passiveState with rxPhase := .done }; s.rxPhase = .done ∧ s.cfg.mode = .passive) ∧
      framedState.rxPhase ≠ .done := by decide

/-- The halting state of the tests is blocked. -/
def blockedHalt : { s : State // receiverBlocked s = some .halted } := ⟨haltState, by decide +kernel⟩

/-- The longest payload of a frame and of a sub-record, and a message of the smallest. -/
theorem witness_DecodeInvertsEncode :
    (Instr.frame 0xFFFF 0 1 2 3 4 longest 5).wf Cfg.sample = true ∧ (Instr.subOther 0x0099 1 longest).wf Cfg.sample = true ∧
      (Instr.kTime 0x0580 []).wf Cfg.sample = true := by
  refine ⟨?_, ?_, by decide +kernel⟩
  · rw [Instr.wf, longest_length]; decide
  · rw [Instr.wf, payloadFits, longest_length]; decide
theorem witness_DecodedInstructionIsWellFormed :
    decode Cfg.sample (.sub [0x10, 0, 1, 0, 0, 0, 0, 0]) = .ok (.subInverter 1 []) ∧
      decode Cfg.sample (.call .sysReset) = .ok .sysReset := ⟨rfl, rfl⟩
theorem witness_DecodedBytesAreTheEncoding :
    (∃ i, decode Cfg.sample (.wire frm1) = .ok i) ∧ ∃ i, decode Cfg.sample (.sub [0x10, 0, 1, 0, 0, 0, 0, 0]) = .ok i :=
  ⟨⟨_, rfl⟩, ⟨_, rfl⟩⟩
theorem witness_SpecWordsDecode : Cfg.sample.classOf 0x0580 = .plain .time := by decide +kernel
theorem witness_StepRunsTheNextInstruction :
    (let s := { State.reset with port := [.call .crcInit] };
      s.port = .call .crcInit :: [] ∧ decode s.cfg (.call .crcInit) = .ok .crcInit) ∧
    (let s := { State.reset with port := [.wire []] };
      s.port = .wire [] :: [] ∧ decode s.cfg (.wire []) = .error .badMagic) ∧
    (framedState.port = [] ∧ framedState.cfg.mode = .framed) ∧ (passiveState.port = [] ∧ passiveState.cfg.mode = .passive) ∧
    decodeTableWord 16 0x0080 = some (.subOptCompact 0 []) :=
  ⟨⟨rfl, rfl⟩, ⟨rfl, rfl⟩, ⟨rfl, rfl⟩, ⟨rfl, rfl⟩, by decide +kernel⟩
theorem witness_MessageRegistersAreWrittenWhole :
    (∃ t, exec (.frameParse []) State.reset = .next t) ∧ ∃ t, exec .crcInit State.reset = .next t := ⟨⟨_, rfl⟩, _, rfl⟩
theorem witness_ResetHasTheInvariant : Cfg.sample.wf = true ∧ ∃ t, exec .sysReset State.reset = .next t := ⟨okSample.2, _, rfl⟩
theorem witness_EveryStepKeepsTheInvariant :
    Inv { State.reset with rxs := [.byte 0x12] } ∧ ∃ t, step { State.reset with rxs := [.byte 0x12] } = .next t :=
  ⟨witness_invariant _, _, rfl⟩
theorem witness_TerminalPhases :
    (∃ t, exec (.deliver [1] none) framedState = .next t ∧ framedState.rxPhase ≠ .desync ∧ t.rxPhase = .desync) ∧
    ((∃ t, exec .crcInit desyncState = .next t) ∧ desyncState.rxPhase = .desync) ∧
    (∃ t, exec .endOfStream framedState = .next t ∧ framedState.rxPhase ≠ .done ∧ t.rxPhase = .done) ∧
    ((∃ t, exec (.sysReopen []) doneState = .next t) ∧ doneState.rxPhase = .done) :=
  ⟨⟨_, rfl, by decide, rfl⟩, ⟨⟨_, rfl⟩, rfl⟩, ⟨_, rfl, by decide, rfl⟩, ⟨_, rfl⟩, rfl⟩
/-- An unknown function under `CFG.HALT_ON_ERROR`, and a refused payload size. -/
theorem witness_ErrorPolicy :
    (∃ t, exec (.kUnknown 0xFFFF []) (State.resetOf haltCfg) = .next t ∧ (State.resetOf haltCfg).stHalt = false ∧
      t.stHalt = true) ∧
    (∃ t, exec (.decLong []) State.reset = .next t ∧ State.reset.stRefused = false ∧ t.stRefused = true) :=
  ⟨⟨_, rfl, rfl, rfl⟩, _, rfl, rfl, rfl⟩
theorem witness_StreamsAndConfigurationFrame :
    ∃ t, exec (.rxStepFramed none) { State.reset with rxs := [.byte 0x12] } = .next t := ⟨_, rfl⟩

end Sys2Proof.Tests
end

section
/-! PROOFS. Byte order (R9): the readers behind a prefix, the big-endian encoders on an integer given by its bytes. -/

namespace Sys2Proof.Proofs.Scope

theorem le16_append_pair (pre rest : Bytes) (b0 b1 : Byte) :
    le16 (pre ++ b0 :: b1 :: rest) pre.length = b1 ++ b0 :=
  (le16_append_right pre (b0 :: b1 :: rest) 0).trans (le16_cons b0 b1 rest)

theorem le32_append_quad (pre rest : Bytes) (b0 b1 b2 b3 : Byte) :
    le32 (pre ++ b0 :: b1 :: b2 :: b3 :: rest) pre.length = b3 ++ (b2 ++ (b1 ++ b0)) :=
  (le32_append_right pre (b0 :: b1 :: b2 :: b3 :: rest) 0).trans (le32_cons b0 b1 b2 b3 rest)

theorem encBE16_pair (b1 b0 : Byte) : encBE16 (b1 ++ b0) = [b1, b0] := by
  rw [encBE16_reverse, encLE16_pair]; rfl

theorem encBE32_quad (b3 b2 b1 b0 : Byte) : encBE32 (b3 ++ (b2 ++ (b1 ++ b0))) = [b3, b2, b1, b0] := by
  rw [encBE32_reverse, encLE32_quad]; rfl

/-- Settles O1: a reader skips the prefix and joins the bytes it stands at; the big-endian encoders reverse the little-endian
ones. -/
theorem byteOrderOfIntegers : Obligations.ByteOrderOfIntegers :=
  ⟨le16_append_pair, le32_append_quad,
    fun b0 b1 => ⟨encLE16_pair b1 b0, encBE16_pair b1 b0⟩,
    fun b0 b1 b2 b3 => ⟨encLE32_quad b3 b2 b1 b0, encBE32_quad b3 b2 b1 b0⟩⟩

end Sys2Proof.Proofs.Scope
end

section
/-! PROOFS. `StreamRead(n)` (R56, R57): what each event does to a read, and how many bytes a read delivers. -/

namespace Sys2Proof.Proofs.Memory

open Sys2Proof.Machine

section
variable {live : Bool} {n k : Nat} {events rest : List Event} {bs got out : Bytes}

/-! ### What one event does to a read -/

@[simp] theorem streamRead_zero : streamRead live 0 events got = .bytes got events := by
  cases events <;> rfl

@[simp] theorem streamRead_byte (b : Byte) :
    streamRead live (n + 1) (.byte b :: events) got = streamRead live n events (got ++ [b]) := rfl

theorem streamRead_empty_live :
    streamRead true (n + 1) (.empty :: events) got = streamRead true (n + 1) events got := rfl

theorem streamRead_empty_finite : streamRead false (n + 1) (.empty :: events) got = .eos got.length events := rfl

theorem streamRead_fault : streamRead live (n + 1) (.fault :: events) got = .eos got.length events := rfl

/-- A read that asks for at least the bytes at the front of the stream takes them in order and goes on behind them. -/
theorem streamRead_bytes_append :
    streamRead live (bs.length + n) (bs.map Event.byte ++ events) got = streamRead live n events (got ++ bs) := by
  induction bs generalizing got with
  | nil => simp
  | cons b bs ih => simp [Nat.add_right_comm, ih]

/-! ### How many bytes a read delivers -/

theorem length_of_streamRead_eq_bytes (h : streamRead live n events got = .bytes out rest) :
    out.length = got.length + n := by
  fun_induction streamRead live n events got with
  | case1 got events =>
    cases h
    rfl
  | case2 | case3 | case6 => cases h
  | case4 got n e events b _ ih => simpa [Nat.add_assoc, Nat.add_comm] using ih h
  | case5 got n e events _ ih => exact ih h

theorem lt_of_streamRead_eq_eos (h : streamRead live n events got = .eos k rest) : k < got.length + n := by
  fun_induction streamRead live n events got with
  | case1 | case2 => cases h
  | case3 got n | case6 got n =>
    cases h
    exact Nat.lt_add_of_pos_right n.succ_pos
  | case4 got n e events b _ ih => simpa [Nat.add_assoc, Nat.add_comm] using ih h
  | case5 got n e events _ ih => exact ih h

end

/-- Settles O22: a read passes over the bytes in front of it, and the event behind them decides how it goes on; the two counts are
inductions over the read. -/
theorem streamReadTakesBytesInOrder : Obligations.StreamReadTakesBytesInOrder := by
  refine ⟨fun live bs rest => (streamRead_bytes_append (n := 0)).trans streamRead_zero, fun live n events rest got h => ?_,
    fun live n k events rest h => ?_, fun n bs rest hn => ?_, fun n bs events rest got h hn => ?_⟩
  · simpa using length_of_streamRead_eq_bytes h
  · simpa using lt_of_streamRead_eq_eos h
  · obtain ⟨m, rfl⟩ := Nat.exists_eq_add_of_lt hn
    exact ⟨streamRead_bytes_append.trans streamRead_empty_finite, streamRead_bytes_append.trans streamRead_fault⟩
  · obtain ⟨m, rfl⟩ := Nat.exists_eq_add_of_lt hn
    calc streamRead true (bs.length + (m + 1)) (bs.map Event.byte ++ .empty :: events) []
      _ = streamRead true (m + 1) (.empty :: events) bs := streamRead_bytes_append
      _ = streamRead true (m + 1) events bs := streamRead_empty_live
      _ = streamRead true (bs.length + (m + 1)) (bs.map Event.byte ++ events) [] :=
        (streamRead_bytes_append (got := [])).symm
      _ = .bytes got rest := h

end Sys2Proof.Proofs.Memory
end

section
/-! PROOFS. The CRC unit (R122 to R126): the next state of each of its four instructions, and the table from its polynomial. -/

namespace Sys2Proof.Proofs.Crc

open Sys2Proof.Machine

/-! ### The next state of each instruction -/

theorem exec_crcInit (s : State) : exec .crcInit s = .next { s with crcAcc := 0x5A5A, ret := .none } := rfl

theorem exec_crcStep (b : Byte) (s : State) :
    exec (.crcStep b) s = .next { s with crcAcc := crcUpdate s.crcAcc b, ret := .none } := rfl

theorem exec_crcRead (s : State) : exec .crcRead s = .next { s with ret := .crc s.crcAcc } := rfl

theorem exec_crcSum (bs : Bytes) (s : State) :
    exec (.crcSum bs) s = .next { s with crcAcc := crcOf bs, ret := .crc (crcOf bs) } := by
  have hexec : exec (.crcSum bs) s = .next { crcRun bs s with ret := .crc (crcRun bs s).crcAcc } := rfl
  rw [hexec, crcRun_eq]

/-- Settles O3: CRC.SUM leaves `crcOf` of the sequence, and one more byte at the end is one more `crcUpdate`, which is CRC.STEP. -/
theorem crcSumIsTheFoldOfSteps : Obligations.CrcSumIsTheFoldOfSteps := by
  refine ⟨exec_crcSum [], fun bs b s t u ht hu => ?_, fun bs s => ⟨crcOf bs, exec_crcSum bs s⟩⟩
  rw [exec_crcSum] at ht
  cases ht
  rw [exec_crcStep] at hu
  cases hu
  rw [exec_crcSum, crcOf_snoc]

/-- Settles O2: the next states of the three instructions, the update of CRC.STEP read on the accumulator's two bytes. -/
theorem crcRegisterOperations : Obligations.CrcRegisterOperations := by
  refine fun s => ⟨exec_crcInit s, fun hi lo b hacc => ?_, exec_crcRead s⟩
  rw [exec_crcStep, hacc, crcUpdate_bytes]

/-! ### The table -/

/-- The listed rows are the constructed entries in order, sixteen to a row. -/
theorem crcRows_eq_map_crcConstruct :
    crcRows = (List.range 16).map fun r => (List.range 16).map fun c => crcConstruct (BitVec.ofNat 8 (16 * r + c)) := by
  decide +kernel

/-- Settles O4: entry `i` stands in row `i / 16` at column `i % 16`, and there the construction from `i` stands too. -/
theorem crcTableIsBuiltFromThePolynomial : Obligations.CrcTableIsBuiltFromThePolynomial := by
  intro i
  have hrow : i.toNat / 16 < 16 := Nat.div_lt_of_lt_mul i.isLt
  have hcol : i.toNat % 16 < 16 := Nat.mod_lt _ (by decide)
  rw [crcT, crcRows_eq_map_crcConstruct]
  simp [hrow, hcol, Nat.div_add_mod]

end Sys2Proof.Proofs.Crc
end

section
/-! PROOFS. The frame unit and the pipeline of a completed unit (R140 to R153): the next state of each operation, and DELIVER as what
FRAME.PARSE of the body leads to. -/

namespace Sys2Proof.Proofs.Frame

open Sys2Proof.Machine Sys2Proof.Claim

/-! ### COVERAGE and FRAME.FORMAT -/

theorem coverageOf_bytes (q0 q1 f0 f1 f2 f3 d0 d1 d2 d3 n0 n1 : Byte) (payload : Bytes) :
    coverageOf (q1 ++ q0) (f3 ++ (f2 ++ (f1 ++ f0))) (d3 ++ (d2 ++ (d1 ++ d0))) (n1 ++ n0) payload =
      [q1, q0, f3, f2, f1, f0, d3, d2, d1, d0, n1, n0] ++ payload := by
  rw [coverageOf, Scope.encBE16_pair, Scope.encBE32_quad, Scope.encBE32_quad, Scope.encBE16_pair]
  rfl

theorem exec_coverage (seq : U16) (src dst : U32) (fn : U16) (payload : Bytes) (s : State) :
    exec (.coverage seq src dst fn payload) s = .next { s with ret := .bytes (coverageOf seq src dst fn payload) } := rfl

/-- Settles O9: COVERAGE hands `coverageOf` over, whose integers are encoded most significant byte first. -/
theorem coverageIsBigEndian : Obligations.CoverageIsBigEndian := by
  intro q0 q1 f0 f1 f2 f3 d0 d1 d2 d3 n0 n1 payload s
  rw [exec_coverage, coverageOf_bytes]

theorem not16_pair (b1 b0 : Byte) : not16 (b1 ++ b0) = ~~~b1 ++ ~~~b0 := BitVec.not_append

/-- The bytes of a frame whose fields are given by their bytes (R81). -/
theorem encodeFrame_bytes (l0 l1 i0 i1 q0 q1 f0 f1 f2 f3 d0 d1 d2 d3 n0 n1 c0 c1 : Byte) (payload : Bytes) :
    encodeFrame (l1 ++ l0) (i1 ++ i0) (q1 ++ q0) (f3 ++ (f2 ++ (f1 ++ f0))) (d3 ++ (d2 ++ (d1 ++ d0))) (n1 ++ n0) payload
        (c1 ++ c0) =
      [0x12, 0x34, 0x56, 0x79, l0, l1, i0, i1, q0, q1, f0, f1, f2, f3, d0, d1, d2, d3, n0, n1] ++ payload ++ [c0, c1] := by
  simp only [encodeFrame, encLE16_pair, encLE32_quad]
  rfl

theorem lengthField_eq {payload : Bytes} {len : U16} (h : payload.length = len.toNat) : lengthField payload = len := by
  rw [lengthField, h, BitVec.ofNat_toNat, BitVec.setWidth_eq]

theorem exec_frameFormat {payload : Bytes} (seq : U16) (src dst : U32) (fn : U16) (s : State) (h : payload.length ≤ 65535) :
    exec (.frameFormat seq src dst fn payload) s =
      .next
        { s with
          crcAcc := crcOf (coverageOf seq src dst fn payload), ret := .bytes (formatOf seq src dst fn payload) } := by
  have hexec : exec (.frameFormat seq src dst fn payload) s = execFrameFormat seq src dst fn payload s := rfl
  rw [hexec, execFrameFormat, if_neg (by rw [maxPayload]; omega), formatFrame_eq, handOver_ok]

/-- Settles O10: the frame and its checksum, every field read by its bytes. -/
theorem formatBuildsTheFrame : Obligations.FormatBuildsTheFrame := by
  intro q0 q1 f0 f1 f2 f3 d0 d1 d2 d3 n0 n1 l0 l1 c0 c1 payload s hlen hcks
  have hmax : payload.length ≤ 65535 := by
    have := (l1 ++ l0 : U16).isLt
    omega
  rw [exec_frameFormat _ _ _ _ _ hmax, formatOf, frameWith, lengthField_eq hlen, coverageOf_bytes, hcks, not16_pair,
    encodeFrame_bytes]

/-! ### Error entry and FRAME.PARSE -/

theorem raiseError_eq_errorState {k : Code} (info : Info) (s : State) (he : k.isError = true) (hr : k.isRefusal = false) :
    raiseError k info s = errorState k info s := by
  simp [raiseError, errorState, he, hr]

theorem raiseError_eq_refusalState {k : Code} (info : Info) (s : State) (he : k.isError = true) (hr : k.isRefusal = true) :
    raiseError k info s = refusalState k info s := by
  simp [raiseError, refusalState, he, hr]

section
variable {body : Bytes} {s : State}

theorem exec_frameParse_ok {p : Parsed} {u : State} (h : parseBody body s = .ok p u) :
    exec (.frameParse body) s = .next { u with ret := p.toRet } := by
  have hexec : exec (.frameParse body) s = handOver ((parseBody body s).map Parsed.toRet) := rfl
  rw [hexec, h, map_ok, handOver_ok]

theorem exec_frameParse_raised {u : State} (h : parseBody body s = .raised u) :
    exec (.frameParse body) s = .next u := by
  have hexec : exec (.frameParse body) s = handOver ((parseBody body s).map Parsed.toRet) := rfl
  rw [hexec, h, map_raised, handOver_raised]

/-- A raise of FRAME.PARSE is the error's entry but for the Message registers. -/
theorem exec_frameParse_raiseParse {k : Code} {info : Info} {u : State} (h : parseBody body s = raiseParse k info u) :
    ∃ t, exec (.frameParse body) s = .next t ∧ noMessageHeld (raiseError k info u) t :=
  ⟨_, exec_frameParse_raised h, rfl⟩

/-! ### The five ends of FRAME.PARSE, each under its condition -/

theorem exec_frameParse_short (h : body.length < 18) :
    exec (.frameParse body) s = .next { State.setCode .shortMessage (clearMessage s) with ret := .empty } := by
  obtain ⟨-, e⟩ | ⟨h18, -⟩ | ⟨h18, -⟩ | ⟨-, hsize, -⟩ | ⟨-, hsize, -⟩ := parseBody_cases body s
  · exact exec_frameParse_ok e
  all_goals omega

theorem exec_frameParse_lengthMismatch (h : 18 ≤ body.length) (hpair : le16 body 0 ≠ not16 (le16 body 2)) :
    ∃ t, exec (.frameParse body) s = .next t ∧
      noMessageHeld (raiseError .lengthMismatch (.lengths (le16 body 0) (le16 body 2)) s) t := by
  obtain ⟨hshort, -⟩ | ⟨-, -, e⟩ | ⟨-, hp, -⟩ | ⟨hp, -⟩ | ⟨hp, -⟩ := parseBody_cases body s
  · omega
  · exact exec_frameParse_raiseParse e
  all_goals exact absurd hp hpair

theorem exec_frameParse_sizeMismatch (h : 18 ≤ body.length) (hpair : le16 body 0 = not16 (le16 body 2))
    (hsize : body.length ≠ 18 + (le16 body 0).toNat) :
    ∃ t, exec (.frameParse body) s = .next t ∧
      noMessageHeld (raiseError .sizeMismatch (.sizes body.length (18 + (le16 body 0).toNat)) s) t := by
  obtain ⟨hshort, -⟩ | ⟨-, hp, -⟩ | ⟨-, -, -, e⟩ | ⟨-, hz, -⟩ | ⟨-, hz, -⟩ := parseBody_cases body s
  · omega
  · exact absurd hpair hp
  · exact exec_frameParse_raiseParse e
  all_goals exact absurd hz hsize

/-- A body that passes the tests of the length pair and the size is decided by its checksum. -/
theorem parseBody_sized (hpair : le16 body 0 = not16 (le16 body 2)) (hsize : body.length = 18 + (le16 body 0).toNat) :
    parseBody body s = parseChecked body s := by
  rw [parseBody, if_neg (by rw [minBody]; omega), if_neg (not_not.mpr hpair),
    if_neg (not_not.mpr (show body.length = minBody + _ from hsize))]

theorem exec_frameParse_checksumMismatch (hpair : le16 body 0 = not16 (le16 body 2))
    (hsize : body.length = 18 + (le16 body 0).toNat)
    (hcks : le16 body (16 + (le16 body 0).toNat) ≠ crcOf (bodyCoverage body)) :
    ∃ t, exec (.frameParse body) s = .next t ∧
      noMessageHeld
        (raiseError .checksumMismatch
          (.checksums (le16 body (16 + (le16 body 0).toNat)) (crcOf (bodyCoverage body)))
          { s with
            crcAcc := crcOf (bodyCoverage body)
            stWire := le16 body (16 + (le16 body 0).toNat), stCalc := crcOf (bodyCoverage body) }) t :=
  exec_frameParse_raiseParse ((parseBody_sized hpair hsize).trans (parseChecked_mismatch hcks))

theorem exec_frameParse_accepted (hpair : le16 body 0 = not16 (le16 body 2))
    (hsize : body.length = 18 + (le16 body 0).toNat)
    (hcks : le16 body (16 + (le16 body 0).toNat) = crcOf (bodyCoverage body)) :
    exec (.frameParse body) s =
      .next (accepted (le16 body 0) (le16 body 2) (le16 body 4) (le32 body 6) (le32 body 10) (le16 body 14)
        ((body.drop 16).take (le16 body 0).toNat) (le16 body (16 + (le16 body 0).toNat)) s) := by
  rw [exec_frameParse_ok ((parseBody_sized hpair hsize).trans (parseChecked_accept hcks)), acceptBody, ← hcks]
  rfl

end

/-- Settles O12: one clause for each end, the three raises read as the states an error or a refusal leaves. -/
theorem parseFollowsItsContract : Obligations.ParseFollowsItsContract := by
  refine fun body s => ⟨exec_frameParse_short, fun h hpair => ?_, fun h hpair hsize => ?_,
    fun hpair hsize => ⟨fun hcks => ?_, exec_frameParse_accepted hpair hsize⟩⟩
  · rw [← raiseError_eq_errorState _ _ rfl rfl]
    exact exec_frameParse_lengthMismatch h hpair
  · rw [← raiseError_eq_refusalState _ _ rfl rfl]
    exact exec_frameParse_sizeMismatch h hpair hsize
  · rw [← raiseError_eq_errorState _ _ rfl rfl]
    exact exec_frameParse_checksumMismatch hpair hsize hcks

/-! ### FRAME.FILTER and END_OF_STREAM -/

/-- Settles O15: the filter's test `allZero` says that the unit is not empty and every byte is zero. -/
theorem filterDropsAllZeroUnits : Obligations.FilterDropsAllZeroUnits := by
  intro unit s
  have hexec : exec (.frameFilter unit) s = execFrameFilter unit s := rfl
  rw [hexec, execFrameFilter]
  refine ⟨fun hne hzero => ?_, fun hpass => ?_⟩
  · rw [if_pos ((allZero_iff unit).mpr ⟨hne, hzero⟩)]
    rfl
  · rw [(allZero_false_iff unit).mpr hpass]
    rfl

theorem whenEnabled_none {blocked : Option Fault} (h : blocked = none) (r : Res Ret) : whenEnabled blocked r = handOver r := by
  rw [h, whenEnabled]

theorem whenEnabled_fault {blocked : Option Fault} (h : blocked ≠ none) (r : Res Ret) :
    ∃ f, whenEnabled blocked r = .fault f := by
  obtain ⟨f, rfl⟩ := Option.ne_none_iff_exists'.mp h
  exact ⟨f, rfl⟩

/-- In phase `DONE` neither receiver steps (R38, R152). -/
theorem exec_rxStep_fault_of_done {s : State} (h : s.rxPhase = .done) (ctx : Option U16) :
    (∃ f, exec (.rxStepFramed ctx) s = .fault f) ∧ ∃ f, exec (.rxStepPassive ctx) s = .fault f := by
  have hf : framedBlocked s ≠ none := by simp [framedBlocked_none, h]
  have hp : passiveBlocked s ≠ none := by simp [passiveBlocked_none, h]
  exact ⟨whenEnabled_fault hf _, whenEnabled_fault hp _⟩

/-- Settles O19: an enabled END_OF_STREAM is `endStream`, which leaves phase `DONE`. -/
theorem endOfStreamDiscards : Obligations.EndOfStreamDiscards :=
  fun s hs => ⟨whenEnabled_none hs (endStream s), exec_rxStep_fault_of_done rfl⟩

/-! ### DELIVER -/

theorem exec_deliver {s : State} (hs : CanReceive s) (unit : Bytes) (ctx : Option U16) :
    exec (.deliver unit ctx) s = handOver (deliverUnit unit ctx s) := whenEnabled_none hs _

theorem exec_dispatch (fn : U16) (pay : Bytes) (ctx : Option U16) (s : State) :
    exec (.dispatch fn pay ctx) s = handOver (dispatchMessage fn pay ctx s) := rfl

/-- DISPATCH does not read what was handed over last. -/
theorem dispatchMessage_ret (fn : U16) (pay : Bytes) (ctx : Option U16) (s : State) (r : Ret) :
    handOver (dispatchMessage fn pay ctx { s with ret := r }) = handOver (dispatchMessage fn pay ctx s) :=
  dispatchClass_ret _ fn pay s r

theorem deliverUnit_allZero {unit : Bytes} (ctx : Option U16) (s : State) (h : allZero unit = true) :
    deliverUnit unit ctx s = .ok .none (State.setCode .allZeroDiscard s) := if_pos h

theorem deliverUnit_badMagic {unit : Bytes} {s : State} (ctx : Option U16) (hz : allZero unit = false)
    (hm : s.cfg.mode = .framed) (h : unit.take 4 ≠ magic) : deliverUnit unit ctx s = .raised (badMagic unit s) := by
  simp [deliverUnit, hz, hm, h]

/-- A unit that passes the filter and, in framed mode, the magic check is parsed and dispatched. -/
theorem deliverUnit_body {unit body : Bytes} {s : State} (ctx : Option U16)
    (h : (s.cfg.mode = .framed ∧ unit = magic ++ body) ∨
      (s.cfg.mode = .passive ∧ unit = body ∧ (body = [] ∨ ∃ b ∈ body, b ≠ 0))) :
    deliverUnit unit ctx s = parseAndDispatch body ctx s := by
  obtain ⟨hm, rfl⟩ | ⟨hm, rfl, hb⟩ := h
  · have hz : allZero (magic ++ body) = false := rfl
    have htake : (magic ++ body).take 4 = magic := rfl
    have hdrop : (magic ++ body).drop 4 = body := rfl
    simp [deliverUnit, hz, hm, htake, hdrop]
  · simp [deliverUnit, (allZero_false_iff unit).mpr hb, hm]

/-- FRAME.PARSE gives `Empty`, raises and hands nothing over, or gives the message whose function code and payload stand in the
Message registers. -/
theorem parseBody_outcome (body : Bytes) (s : State) :
    (∃ u, parseBody body s = .ok .empty u) ∨ (∃ u, parseBody body s = .raised u ∧ u.ret = .none) ∨
      ∃ seq src dst u, parseBody body s = .ok (.message seq src dst u.mFn u.pay) u := by
  obtain ⟨-, e⟩ | ⟨-, -, e⟩ | ⟨-, -, -, e⟩ | ⟨-, -, -, e⟩ | ⟨-, -, -, e⟩ := parseBody_cases body s
  · exact .inl ⟨_, e⟩
  · exact .inr (.inl ⟨_, e, rfl⟩)
  · exact .inr (.inl ⟨_, e, rfl⟩)
  · exact .inr (.inl ⟨_, e, rfl⟩)
  · exact .inr (.inr ⟨_, _, _, acceptBody body s, e⟩)

/-- PARSE and DISPATCH in a row, read off the state `t` FRAME.PARSE leaves (R153). -/
theorem parseAndDispatch_of_frameParse {body : Bytes} {s t : State} (ctx : Option U16)
    (h : exec (.frameParse body) s = .next t) :
    (t.ret = .empty → handOver (parseAndDispatch body ctx s) = .next t) ∧
      (t.ret = .none → handOver (parseAndDispatch body ctx s) = .next t) ∧
      ∀ seq src dst fn payload, t.ret = .message seq src dst fn payload →
        handOver (parseAndDispatch body ctx s) = exec (.dispatch fn payload ctx) t := by
  obtain ⟨u, e⟩ | ⟨u, e, hret⟩ | ⟨seq, src, dst, u, e⟩ := parseBody_outcome body s
  · rw [exec_frameParse_ok e] at h
    cases h
    rw [parseAndDispatch_empty ctx e]
    exact ⟨fun _ => rfl, nofun, nofun⟩
  · rw [exec_frameParse_raised e] at h
    cases h
    rw [parseAndDispatch_raised ctx e, hret]
    exact ⟨nofun, fun _ => rfl, nofun⟩
  · rw [exec_frameParse_ok e] at h
    cases h
    rw [parseAndDispatch_message ctx e]
    refine ⟨nofun, nofun, fun _ _ _ _ _ hmsg => ?_⟩
    cases hmsg
    exact (dispatchMessage_ret u.mFn u.pay ctx u _).symm

/-! ### A formatted frame -/

theorem bodyCoverage_frameBody {len : U16} {payload : Bytes} (lenInv seq : U16) (src dst : U32) (fn cks : U16)
    (h : payload.length = len.toNat) :
    bodyCoverage (frameBody len lenInv seq src dst fn payload cks) = coverageOf seq src dst fn payload := by
  rw [bodyCoverage, frameBody_len, frameBody_seq, frameBody_src, frameBody_dst, frameBody_fn, hdrLen, ← h, frameBody_payload]

/-- A frame body whose length pair, size and checksum are right is taken with its wire fields (R143). -/
theorem exec_frameParse_frameBody {len lenInv : U16} {payload : Bytes} (seq : U16) (src dst : U32) (fn : U16) (s : State)
    (hpair : len = not16 lenInv) (hlen : payload.length = len.toNat) :
    exec (.frameParse (frameBody len lenInv seq src dst fn payload (crcOf (coverageOf seq src dst fn payload)))) s =
      .next (accepted len lenInv seq src dst fn payload (crcOf (coverageOf seq src dst fn payload)) s) := by
  have h := exec_frameParse_accepted (s := s)
    (body := frameBody len lenInv seq src dst fn payload (crcOf (coverageOf seq src dst fn payload)))
  rw [bodyCoverage_frameBody _ _ _ _ _ _ hlen, frameBody_length, frameBody_len, frameBody_lenInv, frameBody_seq,
    frameBody_src, frameBody_dst, frameBody_fn, ← hlen, frameBody_payload, frameBody_cks] at h
  exact h hpair rfl rfl

/-- FRAME.PARSE of a formatted frame without its magic gives the operands back (R145). -/
theorem exec_frameParse_formatOf {payload : Bytes} (seq : U16) (src dst : U32) (fn : U16) (s : State)
    (h : payload.length ≤ 65535) :
    exec (.frameParse ((formatOf seq src dst fn payload).drop 4)) s =
      .next (accepted (BitVec.ofNat 16 payload.length) (~~~(BitVec.ofNat 16 payload.length)) seq src dst fn payload
        (crcOf (coverageOf seq src dst fn payload)) s) :=
  exec_frameParse_frameBody seq src dst fn s (BitVec.not_not).symm (lengthField_toNat h).symm

theorem formatOf_eq_magic_append (seq : U16) (src dst : U32) (fn : U16) (payload : Bytes) :
    formatOf seq src dst fn payload = magic ++ (formatOf seq src dst fn payload).drop 4 := rfl

/-- DISPATCH of a function without arguments (R184). -/
theorem exec_dispatch_zeroarg {fn : U16} {ctx : Option U16} {s : State} (pay : Bytes)
    (h : s.cfg.resolveClass fn ctx = .zeroarg) :
    exec (.dispatch fn pay ctx) s = .next (decodedOk fn .empty s) := by
  rw [exec_dispatch, dispatchMessage, h]
  rfl

/-- Settles O20: the stages of `deliverUnit`, the last two read off FRAME.PARSE of the body; a formatted frame is a magic and a body
FRAME.PARSE accepts. -/
theorem deliverPipeline : Obligations.DeliverPipeline := by
  intro unit ctx s hs
  rw [exec_deliver hs]
  refine ⟨fun hne hzero => ?_, fun hbyte hm hmagic => ?_, fun body t hunit hparse => ?_,
    fun seq src dst fn payload hm hlen hclass hunit => ?_⟩
  · rw [deliverUnit_allZero ctx s ((allZero_iff unit).mpr ⟨hne, hzero⟩)]
    rfl
  · rw [deliverUnit_badMagic ctx ((allZero_false_iff unit).mpr (.inr hbyte)) hm hmagic, badMagic,
      raiseError_eq_refusalState _ _ rfl rfl, handOver_raised]
  · rw [deliverUnit_body ctx hunit]
    exact parseAndDispatch_of_frameParse ctx hparse
  · obtain ⟨-, -, hmessage⟩ := parseAndDispatch_of_frameParse ctx (exec_frameParse_formatOf seq src dst fn s hlen)
    rw [deliverUnit_body ctx (.inl ⟨hm, hunit.trans (formatOf_eq_magic_append seq src dst fn payload)⟩),
      hmessage seq src dst fn payload rfl]
    exact exec_dispatch_zeroarg payload hclass

end Sys2Proof.Proofs.Frame
end

section
/-! PROOFS. The dispatcher (R181 to R195): a decoder called by name and DISPATCH, both read off the decoder's answer; the layouts
byte by byte; the payload sizes each decoder takes. -/

namespace Sys2Proof.Proofs.Dispatch

open Sys2Proof.Machine Sys2Proof.Claim

/-! ### Context and class (R181, R182) -/

theorem exec_resolveCtx (ctx : Option U16) (s : State) :
    exec (.resolveCtx ctx) s = .next { s with ret := .cls (s.cfg.resolveCtx ctx) } := rfl

section
variable {cfg : Cfg} {fn : U16} {ctx : Option U16} {k : PlainClass}

theorem resolveCtx_designated (h : ctx = some cfg.ctxCmd) : cfg.resolveCtx ctx = .opmode := if_pos h

theorem resolveCtx_other (h : ctx ≠ some cfg.ctxCmd) : cfg.resolveCtx ctx = cfg.ctxDefault := if_neg h

theorem resolveClass_plain (h : cfg.classOf fn = .plain k) : cfg.resolveClass fn ctx = k := by
  rw [Cfg.resolveClass, h]

theorem resolveClass_ctx (h : cfg.classOf fn = .ctx) : cfg.resolveClass fn ctx = cfg.resolveCtx ctx := by
  rw [Cfg.resolveClass, h]

theorem resolveClass_eq_none (h : cfg.classOf fn ≠ .ctx) : cfg.resolveClass fn ctx = cfg.resolveClass fn none := by
  cases hk : cfg.classOf fn with
  | plain k => rw [resolveClass_plain hk, resolveClass_plain hk]
  | ctx => exact absurd hk h

end

/-! ### A decoder called by name and DISPATCH, from the decoder's answer (R181) -/

section
variable {k : PlainClass} {d : Bytes → State → Res Result} {i : Instr} {pay : Bytes} {s t : State} {r : Result}
  {fn : U16} {ctx : Option U16} {want : Nat}

theorem exec_decoderCall (hi : decoderCall k pay = some i) (hd : decoderOf k = some d) :
    exec i s = handOver ((d pay s).map Ret.result) := by
  cases k <;> cases hi <;> cases hd <;> rfl

theorem exec_decoder_ok (hi : decoderCall k pay = some i) (hd : decoderOf k = some d) (h : d pay s = .ok r t) :
    exec i s = .next (returned r t) := by
  rw [exec_decoderCall hi hd, h]
  rfl

theorem exec_decoder_raised (hi : decoderCall k pay = some i) (hd : decoderOf k = some d) (h : d pay s = .raised t) :
    exec i s = .next t := by
  rw [exec_decoderCall hi hd, h]
  rfl

theorem exec_dispatch_decoder (hk : s.cfg.resolveClass fn ctx = k) (hd : decoderOf k = some d) :
    exec (.dispatch fn pay ctx) s = handOver (finishDispatch fn (d pay s)) := by
  rw [Frame.exec_dispatch, dispatchMessage, hk, dispatchClass_decoder fn pay s hd]

/-- A result is handed over as `Decoded(fn, r)`, with the flag DISPATCH writes last. -/
theorem exec_dispatch_ok (hk : s.cfg.resolveClass fn ctx = k) (hd : decoderOf k = some d) (h : d pay s = .ok r t) :
    exec (.dispatch fn pay ctx) s = .next { t.flagDecoded r with ret := .decoded fn r } := by
  rw [exec_dispatch_decoder hk hd, h]
  rfl

theorem exec_dispatch_named (hk : s.cfg.resolveClass fn ctx = k) (hd : decoderOf k = some d) (h : d pay s = .ok r t)
    (hr : r.missed = false) : exec (.dispatch fn pay ctx) s = .next (decodedOk fn r t) := by
  rw [exec_dispatch_ok hk hd h, flagDecoded_named t hr]
  rfl

/-- A raise of the decoder stands. -/
theorem exec_dispatch_raised (hk : s.cfg.resolveClass fn ctx = k) (hd : decoderOf k = some d) (h : d pay s = .raised t) :
    exec (.dispatch fn pay ctx) s = .next t := by
  rw [exec_dispatch_decoder hk hd, h]
  rfl

/-- A class without a decoder is `K_UNKNOWN` (R254). -/
theorem exec_dispatch_unknown (hk : s.cfg.resolveClass fn ctx = .unknown) :
    exec (.dispatch fn pay ctx) s = .next (errorState .unknownFunction (.function fn) s) := by
  rw [Frame.exec_dispatch, dispatchMessage, hk, ← Frame.raiseError_eq_errorState _ _ rfl rfl]
  rfl

theorem exists_decoderOf (hi : decoderCall k pay = some i) : ∃ d, decoderOf k = some d := by
  cases k
  case unknown => cases hi
  all_goals exact ⟨_, rfl⟩

/-- A decoder that raises hands nothing over. -/
theorem ret_of_decoder_raised (hd : decoderOf k = some d) (h : d pay s = .raised t) : t.ret = .none := by
  have ha : DecoderAnswer s (.raised t) := h ▸ decoder_answer hd pay s
  cases ha <;> rfl

theorem flagDecoded_ret_eq_afterDecoder (fn : U16) (r : Result) (t : State) :
    { t.flagDecoded r with ret := .decoded fn r } = afterDecoder fn (returned r t) := by
  rcases hr : r.missed
  · rw [flagDecoded_named t hr]
    simp [returned, afterDecoder, hr, decodedOk, State.setCode]
  · rw [flagDecoded_missed t hr]
    simp [returned, afterDecoder, hr]

theorem afterDecoder_of_ret_none (fn : U16) (h : t.ret = .none) : afterDecoder fn t = t := by
  rw [afterDecoder, h]

/-- DISPATCH ends as R181 says, whatever the decoder answers. -/
theorem exec_dispatch_afterDecoder (hk : s.cfg.resolveClass fn ctx = k) (hi : decoderCall k pay = some i) :
    ∃ t, exec i s = .next t ∧ exec (.dispatch fn pay ctx) s = .next (afterDecoder fn t) := by
  obtain ⟨d, hd⟩ := exists_decoderOf hi
  cases h : d pay s with
  | ok r t =>
    refine ⟨returned r t, exec_decoder_ok hi hd h, ?_⟩
    rw [exec_dispatch_ok hk hd h, flagDecoded_ret_eq_afterDecoder]
  | raised t =>
    refine ⟨t, exec_decoder_raised hi hd h, ?_⟩
    rw [exec_dispatch_raised hk hd h, afterDecoder_of_ret_none fn (ret_of_decoder_raised hd h)]

end

/-- The class of a function code, read off the configuration and RESOLVE_CTX as R181 reads it. -/
theorem resolveClass_of_exec_resolveCtx {s : State} {fn : U16} {ctx : Option U16} {k : PlainClass}
    (h : s.cfg.classOf fn = .plain k ∨
      (s.cfg.classOf fn = .ctx ∧ exec (.resolveCtx ctx) s = .next { s with ret := .cls k })) :
    s.cfg.resolveClass fn ctx = k := by
  obtain h | ⟨h, hexec⟩ := h
  · exact resolveClass_plain h
  · rw [exec_resolveCtx] at hexec
    injection hexec with hstate
    injection congrArg State.ret hstate with hcls
    rw [resolveClass_ctx h, hcls]

/-- Settles O27: the class selects a decoder or none, and DISPATCH is read off the decoder's answer. -/
theorem dispatchFollowsTheClass : Obligations.DispatchFollowsTheClass := by
  intro fn pay ctx s k hclass
  have hk := resolveClass_of_exec_resolveCtx hclass
  exact ⟨fun hu => exec_dispatch_unknown (hk.trans hu), fun i hi => exec_dispatch_afterDecoder hk hi⟩

/-! ### The fields of each layout by its bytes (R185 to R194) -/

section
variable (b0 b1 b2 b3 b4 b5 b6 b7 : Byte) (data : Bytes) (s : State)

theorem decParam_bytes : decParam [b0, b1] s = .ok (.param (b1 ++ b0)) s := by
  simp [decParam, fixedSize_ok, le16_cons]

theorem decVersion_bytes : decVersion [b0, b1, b2, b3] s = .ok (.version (b1 ++ b0) (b3 ++ b2)) s := by
  simp [decVersion, fixedSize_ok, le16_cons_succ, le16_cons]

theorem decLong_bytes : decLong [b0, b1, b2, b3] s = .ok (.long (b3 ++ (b2 ++ (b1 ++ b0)))) s := by
  simp [decLong, fixedSize_ok, le32_cons]

theorem decValtype_bytes :
    decValtype [b0, b1, b2, b3, b4, b5] s = .ok (.valType (b3 ++ (b2 ++ (b1 ++ b0))) (b5 ++ b4)) s := by
  simp [decValtype, fixedSize_ok, le32_cons, le16_cons_succ, le16_cons]

theorem decParamval_bytes :
    decParamval [b0, b1, b2, b3, b4, b5] s = .ok (.paramVal (b1 ++ b0) (b5 ++ (b4 ++ (b3 ++ b2)))) s := by
  simp [decParamval, fixedSize_ok, le16_cons, le32_cons_succ, le32_cons]

theorem decTime_bytes :
    decTime [b0, b1, b2, b3, b4, b5, b6, b7] s =
      .ok (.time (b3 ++ (b2 ++ (b1 ++ b0))) ⟨b7 ++ (b6 ++ (b5 ++ b4))⟩) s := by
  simp [decTime, fixedSize_ok, le32_cons_succ, le32_cons, signed32]

/-- The operating mode read, with the miss of its look-up flagged. -/
theorem decOpmode_bytes :
    decOpmode [b0, b1, b2, b3] s =
      .ok (.opMode ⟨b3 ++ (b2 ++ (b1 ++ b0))⟩ (s.cfg.opmodeName ⟨b3 ++ (b2 ++ (b1 ++ b0))⟩))
        (s.flagMiss (.opMode ⟨b3 ++ (b2 ++ (b1 ++ b0))⟩ (s.cfg.opmodeName ⟨b3 ++ (b2 ++ (b1 ++ b0))⟩))) := by
  simp [decOpmode, fixedSize_ok, opModeResult, le32_cons, signed32]

/-- The status read, with the miss of its look-up flagged. -/
theorem decStatus_bytes :
    decStatus [b0, b1] s =
      .ok (.status (b1 ++ b0) (s.cfg.statusName (b1 ++ b0)))
        (s.flagMiss (.status (b1 ++ b0) (s.cfg.statusName (b1 ++ b0)))) := by
  simp [decStatus, fixedSize_ok, statusResult, le16_cons]

theorem decOfflen_bytes :
    decOfflen ([b0, b1, b2, b3, b4, b5, b6, b7] ++ data) s =
      .ok (.offLen (b3 ++ (b2 ++ (b1 ++ b0))) (b7 ++ (b6 ++ (b5 ++ b4))) data) s := by
  rw [decOfflen, if_neg (by simp)]
  simp only [List.cons_append, List.nil_append, le32_cons_succ, le32_cons, List.drop_succ_cons, List.drop_zero]

theorem decStatusvec_nil : decStatusvec [] s = .ok (.statusVec []) s := rfl

theorem decStatusvec_bytes (c0 c1 c2 c3 c4 c5 : Byte) :
    decStatusvec [b0, b1, b2, b3, b4, b5, b6, b7, c0, c1, c2, c3, c4, c5] s =
      .ok (.statusVec [b1 ++ b0, b3 ++ b2, b5 ++ b4, b7 ++ b6, c1 ++ c0, c3 ++ c2, c5 ++ c4]) s := by
  simp [decStatusvec, fixedSize_ok, le16_cons_succ, le16_cons]

variable {b0 b1 b2 b3 s} {name : String}

theorem decOpmode_named (h : s.cfg.opmodeName ⟨b3 ++ (b2 ++ (b1 ++ b0))⟩ = some name) :
    decOpmode [b0, b1, b2, b3] s = .ok (.opMode ⟨b3 ++ (b2 ++ (b1 ++ b0))⟩ (some name)) s := by
  rw [decOpmode_bytes, h, flagMiss_named s rfl]

theorem decOpmode_missed (h : s.cfg.opmodeName ⟨b3 ++ (b2 ++ (b1 ++ b0))⟩ = none) :
    decOpmode [b0, b1, b2, b3] s = .ok (.opMode ⟨b3 ++ (b2 ++ (b1 ++ b0))⟩ none) (s.setCode .mapMiss) := by
  rw [decOpmode_bytes, h, flagMiss_missed s rfl]

theorem decStatus_named (h : s.cfg.statusName (b1 ++ b0) = some name) :
    decStatus [b0, b1] s = .ok (.status (b1 ++ b0) (some name)) s := by
  rw [decStatus_bytes, h, flagMiss_named s rfl]

theorem decStatus_missed (h : s.cfg.statusName (b1 ++ b0) = none) :
    decStatus [b0, b1] s = .ok (.status (b1 ++ b0) none) (s.setCode .mapMiss) := by
  rw [decStatus_bytes, h, flagMiss_missed s rfl]

end

/-- Settles O26: RESOLVE_CTX by its two cases; DISPATCH of four bytes as the class it gives decodes them. -/
theorem contextSelectsTheDecoder : Obligations.ContextSelectsTheDecoder := by
  refine fun ctx f pay s => ⟨fun h => ?_, fun h => ?_, fun name b0 b1 b2 b3 hf h hpay hname => ?_,
    fun b0 b1 b2 b3 hf h hlong hpay => ?_, fun hf => ?_⟩
  · rw [exec_resolveCtx, resolveCtx_designated h]
  · rw [exec_resolveCtx, resolveCtx_other h]
  · subst hpay
    have hk := (resolveClass_ctx hf).trans (resolveCtx_designated h)
    exact exec_dispatch_named hk rfl (decOpmode_named hname) rfl
  · subst hpay
    have hk := ((resolveClass_ctx hf).trans (resolveCtx_other h)).trans hlong
    exact exec_dispatch_named hk rfl (decLong_bytes b0 b1 b2 b3 s) rfl
  · rw [Frame.exec_dispatch, Frame.exec_dispatch, dispatchMessage, dispatchMessage, resolveClass_eq_none hf]

/-! ### The sizes a decoder takes (R195) -/

/-- The decoder of class `k` gives a result on the payload sizes `fits`, and refuses every other size, naming `want`. -/
def TakesSizes (d : Bytes → State → Res Result) (k : PlainClass) (fits : Nat → Prop) (want : Nat) : Prop :=
  ∀ pay s,
    (fits pay.length → ∃ r t, d pay s = .ok r t) ∧
      (¬ fits pay.length → d pay s = .raised (payloadSizeError k pay want s))

theorem fixedSize_takesSizes (k : PlainClass) (want : Nat) (r : Bytes → State → Result) :
    TakesSizes (fun pay s => fixedSize k want pay (r pay s) s) k (· = want) want :=
  fun pay s => ⟨fun h => ⟨_, _, fixedSize_ok (r pay s) s h⟩, fixedSize_refused (r pay s) s⟩

theorem named_takesSizes (k : PlainClass) (want : Nat) (r : Bytes → State → Result) :
    TakesSizes (fun pay s => (fixedSize k want pay (r pay s) s).bind fun v s' => .ok v (s'.flagMiss v)) k (· = want) want := by
  refine fun pay s => ⟨fun h => ⟨r pay s, s.flagMiss (r pay s), ?_⟩, fun h => ?_⟩
  · simp only [fixedSize_ok (r pay s) s h, bind_ok]
  · simp only [fixedSize_refused (r pay s) s h, bind_raised]

theorem decOpmode_takesSizes : TakesSizes decOpmode .opmode (· = 4) 4 := named_takesSizes _ _ _
theorem decStatus_takesSizes : TakesSizes decStatus .status (· = 2) 2 := named_takesSizes _ _ _
theorem decParam_takesSizes : TakesSizes decParam .param (· = 2) 2 := fixedSize_takesSizes _ _ _
theorem decVersion_takesSizes : TakesSizes decVersion .version (· = 4) 4 := fixedSize_takesSizes _ _ _
theorem decLong_takesSizes : TakesSizes decLong .long (· = 4) 4 := fixedSize_takesSizes _ _ _
theorem decValtype_takesSizes : TakesSizes decValtype .valtype (· = 6) 6 := fixedSize_takesSizes _ _ _
theorem decParamval_takesSizes : TakesSizes decParamval .paramval (· = 6) 6 := fixedSize_takesSizes _ _ _
theorem decTime_takesSizes : TakesSizes decTime .time (· = 8) 8 := fixedSize_takesSizes _ _ _

theorem decOfflen_takesSizes : TakesSizes decOfflen .offlen (8 ≤ ·) 8 :=
  fun _ _ => ⟨fun h => ⟨_, _, if_neg (Nat.not_lt.mpr h)⟩, fun h => if_pos (Nat.not_le.mp h)⟩

theorem decStatusvec_takesSizes : TakesSizes decStatusvec .statusvec (fun n => n = 0 ∨ n = 14) 14 := by
  refine fun pay s => ⟨fun h => ?_, fun h => ?_⟩
  · obtain h0 | h14 := h
    · exact ⟨_, _, if_pos h0⟩
    · exact ⟨_, _, (if_neg (by omega)).trans (fixedSize_ok _ s h14)⟩
  · obtain ⟨h0, h14⟩ := not_or.mp h
    exact (if_neg h0).trans (fixedSize_refused _ s h14)

/-- The classes of a fixed layout with their sizes (R195). -/
def fixedLayouts : List (PlainClass × Nat) :=
  [(.opmode, 4), (.status, 2), (.param, 2), (.version, 4), (.long, 4), (.valtype, 6), (.paramval, 6), (.time, 8)]

theorem fixedLayouts_takesSizes {k : PlainClass} {n : Nat} (h : (k, n) ∈ fixedLayouts) :
    ∃ d, decoderOf k = some d ∧ TakesSizes d k (· = n) n := by
  simp only [fixedLayouts, List.mem_cons, Prod.mk.injEq, List.not_mem_nil, or_false] at h
  obtain ⟨rfl, rfl⟩ | ⟨rfl, rfl⟩ | ⟨rfl, rfl⟩ | ⟨rfl, rfl⟩ | ⟨rfl, rfl⟩ | ⟨rfl, rfl⟩ | ⟨rfl, rfl⟩ | ⟨rfl, rfl⟩ := h
  · exact ⟨_, rfl, decOpmode_takesSizes⟩
  · exact ⟨_, rfl, decStatus_takesSizes⟩
  · exact ⟨_, rfl, decParam_takesSizes⟩
  · exact ⟨_, rfl, decVersion_takesSizes⟩
  · exact ⟨_, rfl, decLong_takesSizes⟩
  · exact ⟨_, rfl, decValtype_takesSizes⟩
  · exact ⟨_, rfl, decParamval_takesSizes⟩
  · exact ⟨_, rfl, decTime_takesSizes⟩

section
variable {k : PlainClass} {d : Bytes → State → Res Result} {i : Instr} {pay : Bytes} {s : State} {fits : Nat → Prop}
  {want : Nat}

theorem payloadSizeError_eq_sizeRefused :
    payloadSizeError k pay want s = sizeRefused (.cls k) pay.length want s :=
  Frame.raiseError_eq_refusalState _ s rfl rfl

theorem exec_decoder_refused (hi : decoderCall k pay = some i) (hd : decoderOf k = some d)
    (hsizes : TakesSizes d k fits want) (h : ¬ fits pay.length) :
    exec i s = .next (sizeRefused (.cls k) pay.length want s) := by
  obtain ⟨-, hrefused⟩ := hsizes pay s
  rw [exec_decoder_raised hi hd (hrefused h), payloadSizeError_eq_sizeRefused]

/-- DISPATCH hands a result over on the sizes its decoder takes, and refuses the others as it does. -/
theorem exec_dispatch_takesSizes {fn : U16} {ctx : Option U16} (hk : s.cfg.classOf fn = .plain k)
    (hd : decoderOf k = some d) (hsizes : TakesSizes d k fits want) :
    (fits pay.length → ∃ t r, exec (.dispatch fn pay ctx) s = .next t ∧ t.ret = .decoded fn r) ∧
      (¬ fits pay.length →
        exec (.dispatch fn pay ctx) s = .next (sizeRefused (.cls k) pay.length want s)) := by
  obtain ⟨hfound, hrefused⟩ := hsizes pay s
  refine ⟨fun h => ?_, fun h => ?_⟩
  · obtain ⟨r, t, hr⟩ := hfound h
    exact ⟨_, r, exec_dispatch_ok (resolveClass_plain hk) hd hr, rfl⟩
  · rw [exec_dispatch_raised (resolveClass_plain hk) hd (hrefused h), payloadSizeError_eq_sizeRefused]

end

/-! ### The decoders called by name -/

/-- Settles O30: each layout by its bytes, and the refusal of every size its decoder does not take. -/
theorem fixedLayoutDecoders : Obligations.FixedLayoutDecoders :=
  fun s =>
    ⟨fun b0 b1 => exec_decoder_ok (k := .param) rfl rfl (decParam_bytes b0 b1 s),
      fun _ => exec_decoder_refused rfl rfl decParam_takesSizes,
      fun b0 b1 b2 b3 => exec_decoder_ok (k := .version) rfl rfl (decVersion_bytes b0 b1 b2 b3 s),
      fun _ => exec_decoder_refused rfl rfl decVersion_takesSizes,
      fun b0 b1 b2 b3 => exec_decoder_ok (k := .long) rfl rfl (decLong_bytes b0 b1 b2 b3 s),
      fun _ => exec_decoder_refused rfl rfl decLong_takesSizes,
      fun b0 b1 b2 b3 b4 b5 => exec_decoder_ok (k := .valtype) rfl rfl (decValtype_bytes b0 b1 b2 b3 b4 b5 s),
      fun _ => exec_decoder_refused rfl rfl decValtype_takesSizes,
      fun b0 b1 b2 b3 b4 b5 => exec_decoder_ok (k := .paramval) rfl rfl (decParamval_bytes b0 b1 b2 b3 b4 b5 s),
      fun _ => exec_decoder_refused rfl rfl decParamval_takesSizes,
      fun b0 b1 b2 b3 b4 b5 b6 b7 => exec_decoder_ok (k := .time) rfl rfl (decTime_bytes b0 b1 b2 b3 b4 b5 b6 b7 s),
      fun _ => exec_decoder_refused rfl rfl decTime_takesSizes⟩

/-- Settles O31: a name, or the flagged miss; every size but the layout's is refused. -/
theorem nameTableDecoders : Obligations.NameTableDecoders :=
  fun _ _ _ _ _ _ _ =>
    ⟨fun h => exec_decoder_ok (k := .opmode) rfl rfl (decOpmode_named h),
      fun h => exec_decoder_ok (k := .opmode) rfl rfl (decOpmode_missed h),
      exec_decoder_refused rfl rfl decOpmode_takesSizes,
      fun h => exec_decoder_ok (k := .status) rfl rfl (decStatus_named h),
      fun h => exec_decoder_ok (k := .status) rfl rfl (decStatus_missed h),
      exec_decoder_refused rfl rfl decStatus_takesSizes⟩

/-- Settles O32: the two layouts by their bytes, and the refusal of fewer than 8 bytes and of a size that is neither 0 nor 14. -/
theorem variableLayoutDecoders : Obligations.VariableLayoutDecoders := by
  intro s a0 a1 b0 b1 c0 c1 d0 d1 e0 e1 f0 f1 g0 g1 data pay
  exact ⟨exec_decoder_ok (k := .offlen) rfl rfl (decOfflen_bytes a0 a1 b0 b1 c0 c1 d0 d1 data s),
    fun h => exec_decoder_refused rfl rfl decOfflen_takesSizes (Nat.not_le.mpr h),
    exec_decoder_ok (k := .statusvec) rfl rfl (decStatusvec_nil s),
    exec_decoder_ok (k := .statusvec) rfl rfl (decStatusvec_bytes a0 a1 b0 b1 c0 c1 d0 d1 s e0 e1 f0 f1 g0 g1),
    fun h0 h14 => exec_decoder_refused rfl rfl decStatusvec_takesSizes (not_or.mpr ⟨h0, h14⟩)⟩

/-! ### DEC.NONE and the payload sizes in DISPATCH -/

theorem exec_dispatch_encrypted {fn : U16} {ctx : Option U16} {s : State} (pay : Bytes)
    (h : s.cfg.resolveClass fn ctx = .encrypted) : exec (.dispatch fn pay ctx) s = .next (decodedOk fn .empty s) :=
  exec_dispatch_named (d := decNone) h rfl rfl rfl

/-- Settles O33: the decoder of the two classes answers without reading the payload. -/
theorem emptyResultWithoutReading : Obligations.EmptyResultWithoutReading :=
  fun _ pay _ _ =>
    ⟨exec_decoder_ok (k := .zeroarg) (d := decNone) rfl rfl rfl,
      fun h => Frame.exec_dispatch_zeroarg pay (resolveClass_plain h),
      fun h => exec_dispatch_encrypted pay (resolveClass_plain h)⟩

/-- Settles O36: DISPATCH takes the sizes the decoder of the class takes. -/
theorem wrongPayloadSizeIsRefused : Obligations.WrongPayloadSizeIsRefused := by
  intro fn pay ctx s accepts refuses
  refine ⟨fun k n hkn hk => ?_, fun hk => ?_, fun hk => ?_, fun hk => ?_⟩
  · obtain ⟨d, hd, hsizes⟩ := fixedLayouts_takesSizes hkn
    exact exec_dispatch_takesSizes hk hd hsizes
  · obtain ⟨hfits, hrefused⟩ := exec_dispatch_takesSizes hk rfl decStatusvec_takesSizes
    exact ⟨hfits, fun h0 h14 => hrefused (not_or.mpr ⟨h0, h14⟩)⟩
  · obtain ⟨hfits, hrefused⟩ := exec_dispatch_takesSizes hk rfl decOfflen_takesSizes
    exact ⟨hfits, fun h => hrefused (Nat.not_le.mpr h)⟩
  · obtain hk | hk := hk
    · exact ⟨_, .empty, Frame.exec_dispatch_zeroarg pay (resolveClass_plain hk), rfl⟩
    · exact ⟨_, .empty, exec_dispatch_encrypted pay (resolveClass_plain hk), rfl⟩

end Sys2Proof.Proofs.Dispatch
end

section
/-! PROOFS. Device data (R223, R227): the id bit by bit, and the compact record, whose three bit fields are read off the four bytes of
the word they are cut from. -/

namespace Sys2Proof.Proofs.DevData

open Sys2Proof.Machine Sys2Proof.Claim

/-! ### DEV.NORMID (R223) -/

theorem idStatusBit_eq_twoPow : idStatusBit = BitVec.twoPow 32 23 := rfl

theorem getLsbD_normId (x : U32) {k : Nat} (hk : k < 32) : (normId x).getLsbD k = (x.getLsbD k && decide (k ≠ 23)) := by
  rw [normId, BitVec.getLsbD_and, BitVec.getLsbD_not, idStatusBit_eq_twoPow, BitVec.getLsbD_twoPow]
  simp [hk, eq_comm]

/-- Settles O38: the id handed over is `normId`, read bit by bit. -/
theorem deviceIdNormalised : Obligations.DeviceIdNormalised :=
  fun x _ => ⟨normId x, rfl, fun _ => getLsbD_normId x⟩

/-! ### The bit fields of the compact record (R98) -/

/-- A bit of a field is the bit of the word at the field's place. -/
theorem getLsbD_compactField (wd : U32) (lo w : Nat) {i : Nat} (hi : i < w) :
    (compactField wd lo w).getLsbD i = wd.getLsbD (lo + i) := by
  rw [compactField, BitVec.getLsbD_extractLsb', decide_eq_true hi, Bool.true_and]

/-- A byte that ends below bit `k`, with another put in from bit `k` up. -/
theorem getLsbD_setWidth_or_shiftLeft {w k i : Nat} (low high : Byte) (hlow : ∀ j, k ≤ j → low.getLsbD j = false) (hi : i < w) :
    (low.setWidth w ||| (high.setWidth w <<< k)).getLsbD i = if i < k then low.getLsbD i else high.getLsbD (i - k) := by
  rw [BitVec.getLsbD_or, BitVec.getLsbD_setWidth, BitVec.getLsbD_shiftLeft, BitVec.getLsbD_setWidth]
  split
  case isTrue h => simp [hi, h]
  case isFalse h => simp [hi, h, hlow i (Nat.not_lt.mp h), show i - k < w by omega]

/-- A mask of `n` ones keeps the low `n` bits. -/
theorem getLsbD_and_mask {n i : Nat} (b : Byte) (hi : i < n) :
    (b &&& BitVec.ofNat 8 (2 ^ n - 1)).getLsbD i = b.getLsbD i := by
  rw [BitVec.getLsbD_and, BitVec.getLsbD_ofNat, Nat.testBit_two_pow_sub_one, decide_eq_true hi, Bool.and_true]
  rcases Nat.lt_or_ge i 8 with h8 | h8
  · rw [decide_eq_true h8, Bool.and_true]
  · rw [BitVec.getLsbD_of_ge b i h8, Bool.false_and]

theorem getLsbD_ushiftRight_of_ge {n j : Nat} (b : Byte) (h : 8 ≤ n + j) : (b >>> n).getLsbD j = false :=
  (BitVec.getLsbD_ushiftRight b n j).trans (BitVec.getLsbD_of_ge b _ h)

section
variable (b3 b2 b1 b0 : Byte)

/-- Bits 0 to 9: the first byte, and two bits of the second. -/
theorem compactField_vpan :
    compactField (b3 ++ (b2 ++ (b1 ++ b0))) 0 10 = b0.setWidth 10 ||| ((b1 &&& 0x03).setWidth 10 <<< 8) := by
  refine BitVec.eq_of_getLsbD_eq fun i hi => ?_
  rw [getLsbD_compactField _ _ _ hi, getLsbD_quad32, getLsbD_setWidth_or_shiftLeft _ _ (BitVec.getLsbD_of_ge b0) hi,
    Nat.zero_add]
  rcases Nat.lt_or_ge i 8 with h | h
  · rw [if_pos h, if_pos h]
  · rw [if_neg (Nat.not_lt.mpr h), if_neg (Nat.not_lt.mpr h), if_pos (by omega)]
    exact (getLsbD_and_mask (n := 2) b1 (by omega)).symm

/-- Bits 10 to 19: six bits of the second byte, four of the third. -/
theorem compactField_vopt :
    compactField (b3 ++ (b2 ++ (b1 ++ b0))) 10 10 = (b1 >>> 2).setWidth 10 ||| ((b2 &&& 0x0F).setWidth 10 <<< 6) := by
  refine BitVec.eq_of_getLsbD_eq fun i hi => ?_
  have hlow (j : Nat) (hj : 6 ≤ j) : (b1 >>> 2).getLsbD j = false := getLsbD_ushiftRight_of_ge b1 (by omega)
  rw [getLsbD_compactField _ _ _ hi, getLsbD_quad32, getLsbD_setWidth_or_shiftLeft _ _ hlow hi, if_neg (by omega)]
  rcases Nat.lt_or_ge i 6 with h | h
  · rw [if_pos (by omega), if_pos h, BitVec.getLsbD_ushiftRight, show 10 + i - 8 = 2 + i by omega]
  · rw [if_neg (by omega), if_pos (by omega), if_neg (Nat.not_lt.mpr h), show 10 + i - 16 = i - 6 by omega]
    exact (getLsbD_and_mask (n := 4) b2 (by omega)).symm

/-- Bits 20 to 31: four bits of the third byte, and the fourth. -/
theorem compactField_imod :
    compactField (b3 ++ (b2 ++ (b1 ++ b0))) 20 12 = (b2 >>> 4).setWidth 12 ||| (b3.setWidth 12 <<< 4) := by
  refine BitVec.eq_of_getLsbD_eq fun i hi => ?_
  have hlow (j : Nat) (hj : 4 ≤ j) : (b2 >>> 4).getLsbD j = false := getLsbD_ushiftRight_of_ge b2 (by omega)
  rw [getLsbD_compactField _ _ _ hi, getLsbD_quad32, getLsbD_setWidth_or_shiftLeft _ _ hlow hi, if_neg (by omega),
    if_neg (by omega)]
  rcases Nat.lt_or_ge i 4 with h | h
  · rw [if_pos (by omega), if_pos h, BitVec.getLsbD_ushiftRight, show 20 + i - 16 = 4 + i by omega]
  · rw [if_neg (by omega), if_neg (Nat.not_lt.mpr h), show 20 + i - 24 = i - 4 by omega]

end

/-! ### DEV.OPT_COMPACT (R227) -/

/-- The record by its bytes, under the placement of R98: nothing from offset 13 on is read. -/
theorem compactRecord_bytes (id : U32) (b0 b1 b2 b3 b4 b5 b6 b7 b8 b9 b10 b11 b12 : Byte) (rest : Bytes) :
    compactRecord ⟨0, 10, 20⟩ id ([b0, b1, b2, b3, b4, b5, b6, b7, b8, b9, b10, b11, b12] ++ rest) =
      .optCompact id (b3 ++ (b2 ++ (b1 ++ b0))) (b5 ++ b4)
        (b6.setWidth 10 ||| ((b7 &&& 0x03).setWidth 10 <<< 8))
        ((b7 >>> 2).setWidth 10 ||| ((b8 &&& 0x0F).setWidth 10 <<< 6))
        ((b8 >>> 4).setWidth 12 ||| (b9.setWidth 12 <<< 4))
        (b11 ++ b10) ⟨b12⟩ 0 := by
  simp only [compactRecord, List.cons_append, List.nil_append, le16_cons_succ, le32_cons_succ, le16_cons, le32_cons,
    compactField_vpan, compactField_vopt, compactField_imod]
  rfl

section
variable {id : U32} {sub : Bytes} {s : State}

theorem optCompact_ok (h : 13 ≤ sub.length) : optCompact id sub s = .ok (compactRecord s.cfg.compactBits id sub) s :=
  if_neg (Nat.not_lt.mpr h)

theorem optCompact_refused (h : sub.length < 13) :
    optCompact id sub s = .raised (sizeRefused .sOptCompact sub.length 13 s) :=
  (if_pos h).trans (congrArg Res.raised (Frame.raiseError_eq_refusalState _ s rfl rfl))

theorem exec_devOptCompact : exec (.devOptCompact id sub) s = handOver ((optCompact id sub s).map Ret.record) := rfl

theorem exec_devOptCompact_ok (h : 13 ≤ sub.length) :
    exec (.devOptCompact id sub) s = .next { s with ret := .record (compactRecord s.cfg.compactBits id sub) } := by
  rw [exec_devOptCompact, optCompact_ok h, map_ok, handOver_ok]

theorem exec_devOptCompact_refused (h : sub.length < 13) :
    exec (.devOptCompact id sub) s = .next (sizeRefused .sOptCompact sub.length 13 s) := by
  rw [exec_devOptCompact, optCompact_refused h, map_raised, handOver_raised]

end

/-- Settles O41: the record of the bytes on 13 bytes or more, the refusal on fewer. -/
theorem compactRecordFields : Obligations.CompactRecordFields := by
  intro id b0 b1 b2 b3 b4 b5 b6 b7 b8 b9 b10 b11 b12 rest sub s
  refine ⟨fun hbits => ?_, exec_devOptCompact_refused⟩
  have hlen : 13 ≤ ([b0, b1, b2, b3, b4, b5, b6, b7, b8, b9, b10, b11, b12] ++ rest).length := by simp
  rw [exec_devOptCompact_ok hlen, hbits, compactRecord_bytes]

end Sys2Proof.Proofs.DevData
end

section
/-! PROOFS. The exceptions: UnknownFunction, through the class DISPATCH resolves (R33, R182, R254). -/

namespace Sys2Proof.Proofs.Exceptions

open Sys2Proof.Proofs.Dispatch

/-- R33: a configuration the host may supply does not list `0xFFFF`. -/
theorem classOf_0xFFFF_of_wf {cfg : Cfg} (h : cfg.wf = true) : cfg.classOf 0xFFFF = .plain .unknown := by
  simp only [Cfg.wf, Bool.and_eq_true, and_assoc, beq_iff_eq] at h
  obtain ⟨-, -, -, hffff, -⟩ := h
  exact hffff

/-- Settles O29: in each case the class resolves to `K_UNKNOWN`, which DISPATCH raises whatever the payload. -/
theorem unknownFunctionIsRaised : Obligations.UnknownFunctionIsRaised := by
  refine fun f pay ctx s => ⟨fun hf => ?_, fun hf hctx hdefault => ?_, fun hwf => ?_⟩
  · exact exec_dispatch_unknown (resolveClass_plain hf)
  · exact exec_dispatch_unknown (((resolveClass_ctx hf).trans (resolveCtx_other hctx)).trans hdefault)
  · exact exec_dispatch_unknown (resolveClass_plain (classOf_0xFFFF_of_wf hwf))

end Sys2Proof.Proofs.Exceptions
end

section
/-! PROOFS. Reset (R280): the next state of SYS.RESET in both modes, and that every other instruction keeps the marks it clears. -/

namespace Sys2Proof.Proofs.Reset

open Sys2Proof.Machine

variable {s t v : State}

/-! ### What SYS.RESET writes -/

theorem exec_sysReset (s : State) : exec .sysReset s = .next { resetBlock s with ret := .none } := rfl

theorem restartReceiver_framed (h : s.cfg.mode = .framed) :
    restartReceiver s = { s with rxBuf := [], rxPhase := .head, rxNeed := 20, rxWarm := false } := by
  rw [restartReceiver, h]
  rfl

theorem restartReceiver_passive (h : s.cfg.mode = .passive) :
    restartReceiver s = { s with rxBuf := [], rxPhase := .scan, rxNeed := 0, rxWarm := true } := by
  rw [restartReceiver, h]

/-! ### What only SYS.RESET clears -/

/-- `ST.halt`, `ST.refused` and phase `DESYNC` stay where they stand. -/
structure KeepsMarks (s t : State) : Prop where
  halt : s.stHalt = true → t.stHalt = true
  refused : s.stRefused = true → t.stRefused = true
  desync : s.rxPhase = .desync → t.rxPhase = .desync

theorem keepsMarks_of_reads (h : Reads s t) : KeepsMarks s t where
  halt hs := h.halt.trans hs
  refused hs := h.refused.trans hs
  desync hs := by
    obtain hphase | ⟨-, hnot⟩ := h.phase
    · exact hphase.trans hs
    · exact absurd hs hnot

/-- Error entry sets marks and clears none (R257, R258). -/
theorem keepsMarks_raiseError (k : Code) (info : Info) (h : KeepsMarks s v) : KeepsMarks s (raiseError k info v) where
  halt hs := by simp [h.halt hs]
  refused hs := by simp [h.refused hs]
  desync hs := by simp [h.desync hs]

theorem keepsMarks_of_effect (h : Effect s t) : KeepsMarks s t := by
  obtain hreads | ⟨v, k, info, hreads, rfl, -⟩ := h
  · exact keepsMarks_of_reads hreads
  · exact keepsMarks_raiseError k info (keepsMarks_of_reads hreads)

theorem restartReceiver_stHalt (s : State) : (restartReceiver s).stHalt = s.stHalt := by
  unfold restartReceiver
  split <;> rfl

theorem restartReceiver_stRefused (s : State) : (restartReceiver s).stRefused = s.stRefused := by
  unfold restartReceiver
  split <;> rfl

/-- SYS.REOPEN is enabled in phase `DONE` only, and then restarts the receiver on the new streams (R266). -/
theorem exec_sysReopen_next {stream : List Event} (h : exec (.sysReopen stream) s = .next t) :
    s.rxPhase = .done ∧ t = { restartReceiver s with rxs := stream, txs := [], ret := .none } := by
  have hexec : exec (.sysReopen stream) s = execSysReopen stream s := rfl
  rw [hexec, execSysReopen] at h
  split_ifs at h with hdone
  cases h
  exact ⟨hdone, rfl⟩

theorem keepsMarks_of_sysReopen {stream : List Event} (h : exec (.sysReopen stream) s = .next t) : KeepsMarks s t := by
  obtain ⟨hdone, rfl⟩ := exec_sysReopen_next h
  exact ⟨(restartReceiver_stHalt s).trans, (restartReceiver_stRefused s).trans, fun hdesync => by simp [hdone] at hdesync⟩

/-- FRAME.SEND has a next state only when it is enabled, and then it is the one with the frame sent (R142). -/
theorem exec_frameSend_next {seq fn : U16} {src dst : U32} {payload : Bytes}
    (h : exec (.frameSend seq src dst fn payload) s = .next t) :
    t = { sendFrame seq src dst fn payload s with ret := .none } := by
  have hexec : exec (.frameSend seq src dst fn payload) s = execFrameSend seq src dst fn payload s := rfl
  rw [hexec, execFrameSend] at h
  split_ifs at h
  cases h
  rfl

theorem keepsMarks_of_frameSend {seq fn : U16} {src dst : U32} {payload : Bytes}
    (h : exec (.frameSend seq src dst fn payload) s = .next t) : KeepsMarks s t := by
  rw [exec_frameSend_next h, sendFrame_eq]
  exact ⟨id, id, id⟩

/-- R280: no instruction but SYS.RESET clears a mark. -/
theorem exec_keepsMarks {i : Instr} (h : exec i s = .next t) (hi : i ≠ .sysReset) : KeepsMarks s t := by
  obtain heffect | hreset | ⟨stream, rfl⟩ | ⟨seq, src, dst, fn, payload, rfl⟩ := exec_effect i s t h
  · exact keepsMarks_of_effect heffect
  · exact absurd hreset hi
  · exact keepsMarks_of_sysReopen h
  · exact keepsMarks_of_frameSend h

/-- Settles O48: SYS.RESET clears the block around a restarted receiver, and every other instruction keeps the marks. -/
theorem resetWritesItsTable : Obligations.ResetWritesItsTable := by
  refine fun s => ⟨fun hmode => ?_, fun hmode => ?_, fun i t h hi => ?_⟩
  · rw [exec_sysReset, resetBlock, restartReceiver_framed hmode]
    rfl
  · rw [exec_sysReset, resetBlock, restartReceiver_passive hmode]
    rfl
  · obtain ⟨hhalt, hrefused, hdesync⟩ := exec_keepsMarks h hi
    exact ⟨hhalt, hrefused, hdesync⟩

end Sys2Proof.Proofs.Reset
end

section
/-! PROOFS. The frame unit's round trip (R143 to R145): the bytes of a frame put together again from the fields read off them, and
the frame row, FRAME.PARSE and FRAME.SEND on frames. -/

namespace Sys2Proof.Proofs.FrameLaws

open Sys2Proof.Machine Sys2Proof.Claim

/-! ### The bytes from the fields -/

/-- A piece of a byte sequence and everything behind it. -/
theorem piece_append_drop (b : Bytes) {i n j : Nat} (h : i + n = j) : (b.drop i).take n ++ b.drop j = b.drop i := by
  rw [← h, ← List.drop_drop, List.take_append_drop]

/-- A body of the size its payload asks for is the frame body of the fields read off it (R81). -/
theorem frameBody_fields {b : Bytes} {n : Nat} (h : b.length = 18 + n) :
    frameBody (le16 b 0) (le16 b 2) (le16 b 4) (le32 b 6) (le32 b 10) (le16 b 14) ((b.drop 16).take n) (le16 b (16 + n)) =
      b := by
  have hcks : (b.drop (16 + n)).take 2 = b.drop (16 + n) := List.take_of_length_le (by simp; omega)
  rw [frameBody, encodeFrame_drop, encLE16_le16 (by omega), encLE16_le16 (by omega), encLE16_le16 (by omega),
    encLE32_le32 (by omega), encLE32_le32 (by omega), encLE16_le16 (by omega), encLE16_le16 (by omega), hcks]
  simp only [piece_append_drop]
  rfl

/-! ### FRAME.PARSE against FRAME.FORMAT (R145) -/

/-- Settles O13: the fields of a formatted frame's body pass every test of FRAME.PARSE and are taken. -/
theorem parseInvertsFormat : Obligations.ParseInvertsFormat :=
  fun seq src dst fn _ s h => Frame.exec_frameParse_formatOf seq src dst fn s h

/-- A message comes out of FRAME.PARSE only when length pair, size and checksum are right, and then it is the body's fields. -/
theorem accepted_of_exec_frameParse {body : Bytes} {s t : State} {seq : U16} {src dst : U32} {fn : U16} {payload : Bytes}
    (h : exec (.frameParse body) s = .next t) (hret : t.ret = .message seq src dst fn payload) :
    le16 body 0 = not16 (le16 body 2) ∧ body.length = 18 + (le16 body 0).toNat ∧
      le16 body (16 + (le16 body 0).toNat) = crcOf (bodyCoverage body) ∧
      seq = le16 body 4 ∧ src = le32 body 6 ∧ dst = le32 body 10 ∧ fn = le16 body 14 ∧
      payload = (body.drop 16).take (le16 body 0).toNat := by
  obtain ⟨-, e⟩ | ⟨-, -, e⟩ | ⟨-, -, -, e⟩ | ⟨-, -, -, e⟩ | ⟨hpair, hsize, hcks, e⟩ := parseBody_cases body s
  case inl =>
    rw [Frame.exec_frameParse_ok e] at h
    cases h
    cases hret
  case inr.inr.inr.inr =>
    rw [Frame.exec_frameParse_ok e] at h
    cases h
    cases hret
    exact ⟨hpair, hsize, hcks, rfl, rfl, rfl, rfl, rfl⟩
  all_goals
    rw [Frame.exec_frameParse_raised e] at h
    cases h
    cases hret

/-- Settles O14: an accepted body is the frame body of its fields, and its length pair and checksum are those FRAME.FORMAT
computes. -/
theorem acceptedBodyIsAFormattedFrame : Obligations.AcceptedBodyIsAFormattedFrame := by
  intro body s t seq src dst fn payload h hret
  obtain ⟨hpair, hsize, hcks, rfl, rfl, rfl, rfl, rfl⟩ := accepted_of_exec_frameParse h hret
  have hlen : ((body.drop 16).take (le16 body 0).toNat).length = (le16 body 0).toNat := by simp; omega
  have hinv : not16 (le16 body 0) = le16 body 2 := by rw [hpair]; exact BitVec.not_not
  refine ⟨by have := (le16 body 0).isLt; omega, ?_⟩
  rw [Frame.formatOf_eq_magic_append, formatOf, frameWith, Frame.lengthField_eq hlen, hinv]
  have hcov : crcOf (coverageOf (le16 body 4) (le32 body 6) (le32 body 10) (le16 body 14)
      ((body.drop 16).take (le16 body 0).toNat)) = le16 body (16 + (le16 body 0).toNat) := hcks.symm
  rw [hcov]
  exact congrArg (magic ++ ·) (frameBody_fields hsize).symm

/-! ### The frame row (R143) -/

/-- The row is FRAME.PARSE of the frame's body. -/
theorem exec_frame (len lenInv seq : U16) (src dst : U32) (fn : U16) (payload : Bytes) (cks : U16) (s : State) :
    exec (.frame len lenInv seq src dst fn payload cks) s =
      exec (.frameParse (frameBody len lenInv seq src dst fn payload cks)) s := rfl

/-- Settles O16: the three ends of FRAME.PARSE that a body of the right size can have, its fields those of the row. -/
theorem frameRowIsParsed : Obligations.FrameRowIsParsed := by
  intro len lenInv seq src dst fn payload cks s hlen computed
  have hlen0 := frameBody_len len lenInv seq src dst fn payload cks
  have hinv0 := frameBody_lenInv len lenInv seq src dst fn payload cks
  have hsize0 := frameBody_length len lenInv seq src dst fn payload cks
  rw [exec_frame]
  refine ⟨fun hinv => ?_, fun hinv hcks => ?_, fun hinv hcks => ?_⟩
  · have h := Frame.exec_frameParse_lengthMismatch (s := s) (body := frameBody len lenInv seq src dst fn payload cks)
      (by omega)
    rw [hlen0, hinv0, Frame.raiseError_eq_errorState _ _ rfl rfl] at h
    exact h fun hpair => hinv (by rw [hpair]; exact BitVec.not_not.symm)
  · have h := Frame.exec_frameParse_checksumMismatch (s := s) (body := frameBody len lenInv seq src dst fn payload cks)
    rw [hlen0, hinv0, hsize0, ← hlen, frameBody_cks, Frame.bodyCoverage_frameBody _ _ _ _ _ _ hlen,
      Frame.raiseError_eq_errorState _ _ rfl rfl] at h
    exact h (by rw [hinv]; exact BitVec.not_not.symm) rfl hcks
  · subst hcks
    exact Frame.exec_frameParse_frameBody seq src dst fn s (by rw [hinv]; exact BitVec.not_not.symm) hlen

/-! ### FRAME.SEND (R142) -/

theorem exec_frameSend (seq : U16) (src dst : U32) (fn : U16) (payload : Bytes) (s : State) :
    exec (.frameSend seq src dst fn payload) s =
      if s.stHalt then .fault .halted
      else if maxPayload < payload.length then .refused .payloadTooLong
      else handOver (.ok .none (sendFrame seq src dst fn payload s)) := rfl

/-- Settles O11: the halt is looked at first, then the payload's length; a frame that is sent is `sendFrame`. -/
theorem sendAppendsOneWholeFrame : Obligations.SendAppendsOneWholeFrame := by
  intro seq src dst fn payload s
  refine ⟨fun hhalt hlen => ?_, fun hhalt => ?_, fun hhalt hlen => ?_, fun hlen => if_pos hlen⟩
  · rw [exec_frameSend, if_neg (by simp [hhalt]), if_neg (by rw [maxPayload]; omega), sendFrame_eq, handOver_ok]
  · rw [exec_frameSend, if_pos hhalt]
  · rw [exec_frameSend, if_neg (by simp [hhalt])]
    exact if_pos hlen

end Sys2Proof.Proofs.FrameLaws
end

section
/-! PROOFS. The forms of the checksum (R122, R127) and what follows from its linearity (R128): the two bit-serial registers side by
side, the per-byte update over exclusive-or, and bodies that differ in one covered byte. -/

namespace Sys2Proof.Proofs.CrcLaws

open Sys2Proof.Machine Sys2Proof.Claim

/-! ### The bit-serial register (R122, R127) -/

/-- The shift and the feedback are two summands. -/
theorem crcShift_eq_xor (x : Bool) (c : U16) : crcShift x c = (c >>> 1) ^^^ crcShift x 0#16 := by
  cases x <;> simp [crcShift]

theorem crcShift_xor (x y : Bool) (c d : U16) : crcShift (x ^^ y) (c ^^^ d) = crcShift x c ^^^ crcShift y d := by
  have h0 : crcShift (x ^^ y) 0#16 = crcShift x 0#16 ^^^ crcShift y 0#16 := by cases x <;> cases y <;> decide
  rw [crcShift_eq_xor, crcShift_eq_xor x c, crcShift_eq_xor y d, h0, BitVec.ushiftRight_xor_distrib]
  ac_rfl

/-- The first `n` shifts of the bit-serial update. -/
def serialRun (n : Nat) (a : U16) (b : Byte) : U16 :=
  (List.range n).foldl (fun c k => crcShift (c.getLsbD 0 ^^ b.getLsbD k) c) a

theorem serialRun_succ (n : Nat) (a : U16) (b : Byte) :
    serialRun (n + 1) a b = crcShift ((serialRun n a b).getLsbD 0 ^^ b.getLsbD n) (serialRun n a b) := by
  rw [serialRun, List.range_succ, List.foldl_append]
  rfl

theorem crcBitSerial_eq_serialRun (a : U16) (b : Byte) : crcBitSerial a b = serialRun 8 a b := rfl

theorem crcConstruct_eq_serialRun (i : Byte) : crcConstruct i = serialRun 8 (i.setWidth 16) 0#8 := by
  simp only [crcConstruct, serialRun, BitVec.getLsbD_zero, Bool.xor_false]

/-- The register is linear in its content and its input together. -/
theorem serialRun_xor (n : Nat) (a a' : U16) (b b' : Byte) :
    serialRun n (a ^^^ a') (b ^^^ b') = serialRun n a b ^^^ serialRun n a' b' := by
  induction n with
  | zero => rfl
  | succ n ih =>
    rw [serialRun_succ, serialRun_succ, serialRun_succ, ih, ← crcShift_xor, BitVec.getLsbD_xor, BitVec.getLsbD_xor]
    congr 1
    simp only [Bool.xor_assoc, Bool.xor_left_comm]

/-- An input that agrees with the bits shifted out feeds nothing back. -/
theorem serialRun_eq_ushiftRight {n : Nat} {a : U16} {b : Byte} (h : ∀ k < n, a.getLsbD k = b.getLsbD k) :
    serialRun n a b = a >>> n := by
  induction n with
  | zero => rfl
  | succ n ih =>
    rw [serialRun_succ, ih fun k hk => h k (by omega), BitVec.getLsbD_ushiftRight, Nat.add_zero, h n (by omega),
      Bool.xor_self, BitVec.shiftRight_add]
    rfl

/-- Only an empty register is empty after a shift without input: the feedback sets the top bit. -/
theorem eq_zero_of_crcShift {c : U16} (h : crcShift (c.getLsbD 0) c = 0#16) : c = 0#16 := by
  have hbit (i : Nat) : (crcShift (c.getLsbD 0) c).getLsbD i = false := by rw [h, BitVec.getLsbD_zero]
  have hlow : c.getLsbD 0 = false := by
    by_contra hset
    have h15 := hbit 15
    rw [Bool.not_eq_false] at hset
    rw [hset, crcShift, if_pos rfl, BitVec.getLsbD_xor, BitVec.getLsbD_ushiftRight, BitVec.getLsbD_of_ge c _ (by omega)] at h15
    exact absurd h15 (by decide)
  refine BitVec.eq_of_getLsbD_eq fun i _ => ?_
  cases i with
  | zero => exact hlow
  | succ i =>
    have hi := hbit i
    rw [hlow, crcShift, if_neg (by decide), BitVec.getLsbD_ushiftRight, Nat.add_comm] at hi
    rw [hi, BitVec.getLsbD_zero]

theorem eq_zero_of_serialRun {n : Nat} {a : U16} (h : serialRun n a 0#8 = 0#16) : a = 0#16 := by
  induction n with
  | zero => exact h
  | succ n ih =>
    rw [serialRun_succ, BitVec.getLsbD_zero, Bool.xor_false] at h
    exact ih (eq_zero_of_crcShift h)

/-! ### The table form is the bit-serial form (R127) -/

theorem exists_pair16 (v : U16) : ∃ hi lo : Byte, v = hi ++ lo :=
  ⟨_, _, ((pair16_eq (v.extractLsb' 8 8) (v.extractLsb' 0 8)).symm.trans (join16 v)).symm⟩

/-- An accumulator is the table index, and its high byte over the input byte: the index runs to its table entry, the rest feeds
nothing back. -/
theorem crcUpdate_eq_crcBitSerial (a : U16) (b : Byte) : crcUpdate a b = crcBitSerial a b := by
  obtain ⟨hi, lo, rfl⟩ := exists_pair16 a
  have hsplit : (hi ++ lo : U16) = (lo ^^^ b).setWidth 16 ^^^ (hi ++ b : U16) := by
    refine BitVec.eq_of_getLsbD_eq fun i h => ?_
    rw [BitVec.getLsbD_xor, getLsbD_pair16, getLsbD_pair16, BitVec.getLsbD_setWidth, BitVec.getLsbD_xor]
    rcases Nat.lt_or_ge i 8 with h8 | h8
    · simp [h, h8]
    · simp [show ¬ i < 8 by omega, BitVec.getLsbD_of_ge _ i h8]
  have hrest : serialRun 8 (hi ++ b : U16) b = (0#8 ++ hi : U16) := by
    rw [serialRun_eq_ushiftRight fun k hk => by rw [getLsbD_pair16, if_pos hk], crcShiftRight]
  calc crcUpdate (hi ++ lo) b
    _ = crcConstruct (lo ^^^ b) ^^^ (0#8 ++ hi : U16) := by rw [crcUpdate_bytes, Crc.crcTableIsBuiltFromThePolynomial]
    _ = serialRun 8 ((lo ^^^ b).setWidth 16) 0#8 ^^^ serialRun 8 (hi ++ b : U16) b := by
      rw [crcConstruct_eq_serialRun, hrest]
    _ = serialRun 8 (hi ++ lo : U16) b := by
      rw [← serialRun_xor, ← hsplit, BitVec.zero_xor]
    _ = crcBitSerial (hi ++ lo) b := (crcBitSerial_eq_serialRun _ b).symm

/-! ### The most-significant-bit-first form (R127) -/

/-- A left shift with the polynomial is, reversed, a right shift with the reversed polynomial. -/
theorem reverse_msbShift (x : Bool) (c : U16) :
    (if x then (c <<< 1) ^^^ 0x8005 else c <<< 1).reverse = crcShift x c.reverse := by
  have hshift : (c <<< 1).reverse = c.reverse >>> 1 := by
    refine BitVec.eq_of_getLsbD_eq fun i _ => ?_
    rw [BitVec.getLsbD_reverse, BitVec.getLsbD_ushiftRight, BitVec.getLsbD_reverse, BitVec.getMsbD_shiftLeft, Nat.add_comm]
  have hxor (d e : U16) : (d ^^^ e).reverse = d.reverse ^^^ e.reverse := by
    refine BitVec.eq_of_getLsbD_eq fun i _ => ?_
    rw [BitVec.getLsbD_xor, BitVec.getLsbD_reverse, BitVec.getLsbD_reverse, BitVec.getLsbD_reverse, BitVec.getMsbD_xor]
  cases x
  · exact hshift
  · rw [if_pos rfl, hxor, hshift, crcShift, if_pos rfl]
    rfl

theorem reverse_crcMsbStep (c : U16) (b : Byte) : (crcMsbStep c b).reverse = crcUpdate c.reverse b := by
  have h (n : Nat) :
      ((List.range n).foldl
        (fun (c : U16) k => if c.getMsbD 0 ^^ b.reverse.getMsbD k then (c <<< 1) ^^^ 0x8005 else c <<< 1) c).reverse =
      serialRun n c.reverse b := by
    induction n with
    | zero => rfl
    | succ n ih =>
      rw [serialRun_succ, ← ih, List.range_succ, List.foldl_append, List.foldl_cons, List.foldl_nil, reverse_msbShift,
        BitVec.getMsbD_reverse, BitVec.getLsbD_reverse]
  rw [crcUpdate_eq_crcBitSerial]
  exact h 8

theorem reverse_foldl_crcMsbStep (bs : Bytes) (c : U16) :
    (bs.foldl crcMsbStep c).reverse = bs.foldl crcUpdate c.reverse := by
  induction bs generalizing c with
  | nil => rfl
  | cons b bs ih => rw [List.foldl_cons, List.foldl_cons, ih, reverse_crcMsbStep]

/-- The initial value reads the same in both directions. -/
theorem reverse_crcInitValue : crcInitValue.reverse = crcInitValue := by decide

/-- Settles O5: both other forms are `crcUpdate` byte by byte, the left-shifting one on the reversed register. -/
theorem crcFormsAgree : Obligations.CrcFormsAgree := by
  refine ⟨crcUpdate_eq_crcBitSerial, fun bs => ?_⟩
  rw [crcMsbFirst, reverse_foldl_crcMsbStep, reverse_crcInitValue, crcOf]

/-! ### Linearity (R128) -/

theorem crcUpdate_xor (a a' : U16) (b b' : Byte) :
    crcUpdate (a ^^^ a') (b ^^^ b') = crcUpdate a b ^^^ crcUpdate a' b' := by
  simp only [crcUpdate_eq_crcBitSerial, crcBitSerial_eq_serialRun, serialRun_xor]

/-- The fold over an exclusive-or of two sequences, the zero bytes carrying the third start value. -/
theorem foldl_crcUpdate_zipWith (x y z : U16) (a b : Bytes) (h : a.length = b.length) :
    (List.zipWith (· ^^^ ·) a b).foldl crcUpdate (x ^^^ y ^^^ z) =
      a.foldl crcUpdate x ^^^ b.foldl crcUpdate y ^^^ (List.replicate a.length 0).foldl crcUpdate z := by
  induction a generalizing x y z b with
  | nil =>
    obtain rfl := List.length_eq_zero_iff.mp h.symm
    rfl
  | cons a0 a ih =>
    obtain ⟨b0, b, rfl⟩ := List.exists_cons_of_length_eq_add_one h.symm
    have hstep : crcUpdate (x ^^^ y ^^^ z) (a0 ^^^ b0) = crcUpdate x a0 ^^^ crcUpdate y b0 ^^^ crcUpdate z 0 := by
      rw [← crcUpdate_xor, ← crcUpdate_xor, BitVec.ofNat_eq_ofNat, BitVec.xor_zero]
    rw [List.zipWith_cons_cons, List.foldl_cons, hstep, ih _ _ _ _ (by simpa using h)]
    rfl

/-- Settles O6: the fold is linear from every start value, and the initial value is the exclusive-or of three of itself. -/
theorem crcIsAffine : Obligations.CrcIsAffine := by
  intro a b h
  have hinit : crcInitValue = crcInitValue ^^^ crcInitValue ^^^ crcInitValue := by decide
  have hfold := foldl_crcUpdate_zipWith crcInitValue crcInitValue crcInitValue a b h
  rw [← hinit] at hfold
  exact hfold

/-- Settles O7: the low byte clears the table index and leaves the high byte, which the second byte clears. -/
theorem crcResidueIsZero : Obligations.CrcResidueIsZero := by
  intro bs s
  have hzero : crcOf (bs ++ encLE16 (crcOf bs)) = 0 := by
    obtain ⟨hi, lo, h⟩ := exists_pair16 (crcOf bs)
    have hT : crcT 0 = 0 := by decide
    rw [crcOf_append, h, encLE16_pair, List.foldl_cons, List.foldl_cons, List.foldl_nil, crcUpdate_bytes, BitVec.xor_self,
      show crcT 0#8 = 0 from hT, BitVec.ofNat_eq_ofNat, BitVec.zero_xor, crcUpdate_bytes, BitVec.xor_self,
      show crcT 0#8 = 0 from hT]
    rfl
  rw [Crc.exec_crcSum, hzero]

/-! ### Sequences that differ in one byte -/

theorem crcUpdate_left_injective {a a' : U16} {b : Byte} (h : crcUpdate a b = crcUpdate a' b) : a = a' := by
  have hzero : crcUpdate (a ^^^ a') (b ^^^ b) = 0#16 := by rw [crcUpdate_xor, h, BitVec.xor_self]
  rw [BitVec.xor_self, crcUpdate_eq_crcBitSerial, crcBitSerial_eq_serialRun] at hzero
  exact BitVec.xor_eq_zero_iff.mp (eq_zero_of_serialRun hzero)

/-- The byte enters by the low byte of the accumulator alone (R124). -/
theorem crcUpdate_pair (hi lo b : Byte) : crcUpdate (hi ++ lo) b = crcUpdate (hi ++ (lo ^^^ b)) 0#8 := by
  rw [crcUpdate_bytes, crcUpdate_bytes, BitVec.xor_zero]

theorem crcUpdate_right_injective {a : U16} {b b' : Byte} (h : crcUpdate a b = crcUpdate a b') : b = b' := by
  obtain ⟨hi, lo, rfl⟩ := exists_pair16 a
  rw [crcUpdate_pair, crcUpdate_pair hi lo b'] at h
  have hbytes := congrArg encLE16 (crcUpdate_left_injective h)
  rw [encLE16_pair, encLE16_pair] at hbytes
  injection hbytes with hlow
  exact (BitVec.xor_right_inj lo).mp hlow

theorem foldl_crcUpdate_injective {a a' : U16} (bs : Bytes) (h : bs.foldl crcUpdate a = bs.foldl crcUpdate a') : a = a' := by
  induction bs generalizing a a' with
  | nil => exact h
  | cons b bs ih => exact crcUpdate_left_injective (ih h)

/-- One byte changed changes the checksum (R128). -/
theorem crcOf_ne_of_byte_ne {x y : Byte} (pre post : Bytes) (h : x ≠ y) :
    crcOf (pre ++ x :: post) ≠ crcOf (pre ++ y :: post) := by
  rw [crcOf_append, crcOf_append]
  exact fun heq => h (crcUpdate_right_injective (foldl_crcUpdate_injective post heq))

/-! ### The covered bytes of a frame body (R84, R140) -/

/-- The places of the covered bytes in a body, in the order of the coverage. -/
def coveredPlaces (len : Nat) : List Nat := [5, 4, 9, 8, 7, 6, 13, 12, 11, 10, 15, 14] ++ List.range' 16 len

theorem mem_coveredPlaces {len i : Nat} (h4 : 4 ≤ i) (h : i < 16 + len) : i ∈ coveredPlaces len := by
  rcases Nat.lt_or_ge i 16 with h16 | h16
  · refine List.mem_append_left _ ?_
    interval_cases i <;> decide
  · exact List.mem_append_right _ (List.mem_range'_1.mpr ⟨h16, h⟩)

theorem nodup_coveredPlaces (len : Nat) : (coveredPlaces len).Nodup := by
  refine List.Nodup.append (by decide) List.nodup_range' fun i hi hi' => ?_
  have hlt : ∀ j ∈ [5, 4, 9, 8, 7, 6, 13, 12, 11, 10, 15, 14], j < 16 := by decide
  have := hlt i hi
  have := (List.mem_range'_1.mp hi').1
  omega

theorem encBE16_le16 (b : Bytes) (i : Nat) : encBE16 (le16 b i) = [byteAt b (i + 1), byteAt b i] := by
  rw [le16, pair16_eq, Scope.encBE16_pair]

theorem encBE32_le32 (b : Bytes) (i : Nat) :
    encBE32 (le32 b i) = [byteAt b (i + 3), byteAt b (i + 2), byteAt b (i + 1), byteAt b i] := by
  rw [le32, quad32_eq, Scope.encBE32_quad]

theorem take_drop_eq_map_byteAt {b : Bytes} {i n : Nat} (h : i + n ≤ b.length) :
    (b.drop i).take n = (List.range' i n).map (byteAt b) := by
  refine List.ext_getElem (by simp; omega) fun j hj _ => ?_
  have hj' : i + j < b.length := by simp at hj; omega
  simp [byteAt, List.getD_eq_getElem?_getD, hj']

/-- The coverage of a body is its bytes at the covered places. -/
theorem bodyCoverage_eq_map {body : Bytes} (h : 16 + (le16 body 0).toNat ≤ body.length) :
    bodyCoverage body = (coveredPlaces (le16 body 0).toNat).map (byteAt body) := by
  rw [bodyCoverage, coverageOf, encBE16_le16, encBE32_le32, encBE32_le32, encBE16_le16, hdrLen, take_drop_eq_map_byteAt h,
    coveredPlaces, List.map_append]
  rfl

/-! ### One flipped bit (R128) -/

section
variable {b : Bytes} {i k : Nat}

theorem flipBit_length : (flipBit b i k).length = b.length := List.length_set

theorem byteAt_flipBit_of_ne {j : Nat} (h : j ≠ i) : byteAt (flipBit b i k) j = byteAt b j := by
  rw [byteAt, flipBit, List.getD_eq_getElem?_getD, List.getElem?_set_ne h.symm, ← List.getD_eq_getElem?_getD, byteAt]

theorem byteAt_flipBit_ne (hi : i < b.length) (hk : k < 8) : byteAt b i ≠ byteAt (flipBit b i k) i := by
  have hself : byteAt (flipBit b i k) i = byteAt b i ^^^ (1#8 <<< k) := by
    simp [byteAt, flipBit, hi]
  rw [hself]
  intro heq
  have hbit := congrArg (·.getLsbD k) heq
  simp [hk] at hbit

theorem le16_flipBit {j : Nat} (h : i ≠ j) (h' : i ≠ j + 1) : le16 (flipBit b i k) j = le16 b j := by
  rw [le16, byteAt_flipBit_of_ne h.symm, byteAt_flipBit_of_ne h'.symm, le16]

/-- A bit flipped at a covered place changes the checksum of the coverage. -/
theorem crcOf_bodyCoverage_flipBit (h4 : 4 ≤ i) (h : i < 16 + (le16 b 0).toNat) (hb : 16 + (le16 b 0).toNat ≤ b.length)
    (hk : k < 8) : crcOf (bodyCoverage b) ≠ crcOf (bodyCoverage (flipBit b i k)) := by
  have hlen : le16 (flipBit b i k) 0 = le16 b 0 := le16_flipBit (by omega) (by omega)
  obtain ⟨pre, post, hplaces⟩ := List.append_of_mem (mem_coveredPlaces h4 h)
  have hnodup := nodup_coveredPlaces (le16 b 0).toNat
  rw [hplaces, List.nodup_middle, List.nodup_cons, List.mem_append, not_or] at hnodup
  obtain ⟨⟨hpre, hpost⟩, -⟩ := hnodup
  have hsame {l : List Nat} (hl : i ∉ l) : l.map (byteAt (flipBit b i k)) = l.map (byteAt b) :=
    List.map_congr_left fun j hj => byteAt_flipBit_of_ne fun hji => hl (hji ▸ hj)
  rw [bodyCoverage_eq_map hb, bodyCoverage_eq_map (by rw [hlen, flipBit_length]; exact hb), hlen, hplaces, List.map_append,
    List.map_append, List.map_cons, List.map_cons, hsame hpre, hsame hpost]
  exact crcOf_ne_of_byte_ne _ _ (byteAt_flipBit_ne (by omega) hk)

variable {s : State}

/-- A body FRAME.PARSE accepts is rejected after one flip: length pair, size and checksum field still pass, the checksum of the
coverage is another. -/
theorem exec_frameParse_flipBit (hpair : le16 b 0 = not16 (le16 b 2)) (hsize : b.length = 18 + (le16 b 0).toNat)
    (hcks : le16 b (16 + (le16 b 0).toNat) = crcOf (bodyCoverage b)) (h4 : 4 ≤ i) (h : i < 16 + (le16 b 0).toNat) (hk : k < 8) :
    ∃ (wire computed : U16) (t : State), wire ≠ computed ∧ exec (.frameParse (flipBit b i k)) s = .next t ∧
      noMessageHeld
        (errorState .checksumMismatch (.checksums wire computed)
          { s with crcAcc := computed, stWire := wire, stCalc := computed }) t := by
  have hne := crcOf_bodyCoverage_flipBit h4 h (by omega) hk
  have hparse := Frame.exec_frameParse_checksumMismatch (s := s) (body := flipBit b i k)
  rw [le16_flipBit (by omega) (by omega), le16_flipBit (by omega) (by omega), le16_flipBit (by omega) (by omega),
    flipBit_length, hcks, Frame.raiseError_eq_errorState _ _ rfl rfl] at hparse
  obtain ⟨t, hexec, ht⟩ := hparse hpair hsize hne
  exact ⟨_, _, t, hne, hexec, ht⟩

end

/-- Settles O8: the body of a formatted frame is one FRAME.PARSE accepts. -/
theorem singleBitFlipIsRejected : Obligations.SingleBitFlipIsRejected := by
  intro seq src dst fn payload i k s hmax h4 hi hk
  have hL : payload.length = (lengthField payload).toNat := (lengthField_toNat hmax).symm
  have h := exec_frameParse_flipBit (i := i) (k := k) (s := s)
    (b := frameBody (lengthField payload) (not16 (lengthField payload)) seq src dst fn payload
      (crcOf (coverageOf seq src dst fn payload)))
  rw [Frame.bodyCoverage_frameBody _ _ _ _ _ _ hL, frameBody_length, frameBody_len, frameBody_lenInv, ← hL,
    frameBody_cks] at h
  exact h BitVec.not_not.symm rfl rfl h4 hi hk

end Sys2Proof.Proofs.CrcLaws
end

section
/-! PROOFS. The whole machine, instruction by instruction, said once: what every instruction but nine can write, and from it the
invariant, the Message registers, the terminal phases, the error policy and the frame of the streams. -/

namespace Sys2Proof.Proofs.WholeMachine

open Sys2Proof.Machine Sys2Proof.Claim

variable {α β : Type} {s t u : State}

/-! ### The instructions that write little -/

/-- At most `CRC.acc`, `ST.sub` and the recorded tags are written, and the tags stay as many as `ST.sub` counts. -/
inductive Touches (s : State) : State → Prop where
  | intro (acc : U16) (n : Nat) (tags : List U16) (h : s.stTags.length = s.stSub → tags.length = n) :
    Touches s { s with crcAcc := acc, stSub := n, stTags := tags }

theorem Touches.refl (s : State) : Touches s s := .intro s.crcAcc s.stSub s.stTags id

theorem Touches.crcAcc (acc : U16) (s : State) : Touches s { s with crcAcc := acc } := .intro acc s.stSub s.stTags id

theorem Touches.of_skips (h : Skips s t) : Touches s t := by
  cases h with | intro n tags h => exact .intro s.crcAcc n tags h

/-- The answers of the operations that neither parse, receive, send nor restart: a value, with `ST.code` kept or at a kind that is no
error, or an error other than FRAME.PARSE's checksum. -/
inductive MinorAnswer (s : State) : Res α → Prop where
  | plain (a : α) (u : State) (h : Touches s u) : MinorAnswer s (.ok a u)
  | coded (a : α) (u : State) (k : Code) (h : Touches s u) (hk : k.fits .none = true)
    (hne : k ≠ .unknownDeviceType ∧ k ≠ .transportFault) : MinorAnswer s (.ok a (u.setCode k))
  | raised (u : State) (k : Code) (info : Info) (h : Touches s u) (hk : k.isError = true) (hfits : k.fits info = true)
    (hne : k ≠ .checksumMismatch) : MinorAnswer s (.raised (raiseError k info u))

theorem MinorAnswer.map {r : Res α} (f : α → β) (h : MinorAnswer s r) : MinorAnswer s (r.map f) := by
  cases h with
  | plain a u h => exact .plain _ u h
  | coded a u k h hk hne => exact .coded _ u k h hk hne
  | raised u k info h hk hfits hne => exact .raised u k info h hk hfits hne

theorem dispatchClass_minor (k : PlainClass) (fn : U16) (pay : Bytes) (s : State) :
    MinorAnswer s (dispatchClass k fn pay s) := by
  generalize hx : dispatchClass k fn pay s = x
  have ha : DispatchAnswer fn s x := hx ▸ dispatchClass_answer k fn pay s
  cases ha with
  | ok r t _ ht => exact .coded _ t .ok (.of_skips ht) rfl (by decide)
  | miss r _ => exact .coded _ s .mapMiss (.refl s) rfl (by decide)
  | unknown => exact .raised s _ _ (.refl s) rfl rfl (by decide)
  | size c held want t ht => exact .raised t _ _ (.of_skips ht) rfl rfl (by decide)
  | truncated p held want t ht => exact .raised t _ _ (.of_skips ht) rfl rfl (by decide)

theorem decoder_minor {k : PlainClass} {d : Bytes → State → Res Result} (hd : decoderOf k = some d) (pay : Bytes) (s : State) :
    MinorAnswer s (d pay s) := by
  generalize hx : d pay s = x
  have ha : DecoderAnswer s x := hx ▸ decoder_answer hd pay s
  cases ha with
  | found r t _ ht => exact .plain _ t (.of_skips ht)
  | missed r _ => exact .coded _ s .mapMiss (.refl s) rfl (by decide)
  | size c held want t ht => exact .raised t _ _ (.of_skips ht) rfl rfl (by decide)
  | truncated p held want t ht => exact .raised t _ _ (.of_skips ht) rfl rfl (by decide)

theorem openRecord_minor (layout : Option Layout) (c : SizeClass) (mk : SubBody → DevRec) (sub : Bytes) (s : State) :
    MinorAnswer s (openRecord layout c mk sub s) := by
  obtain ⟨body, e⟩ | ⟨want, e⟩ := openRecord_cases layout c mk sub s <;> rw [e]
  · exact .plain _ s (.refl s)
  · exact .raised s _ _ (.refl s) rfl rfl (by decide)

theorem optCompact_minor (id : U32) (sub : Bytes) (s : State) : MinorAnswer s (optCompact id sub s) := by
  rcases Nat.lt_or_ge sub.length 13 with h | h
  · rw [optCompact, if_pos (show sub.length < compactLen from h)]
    exact .raised s _ _ (.refl s) rfl rfl (by decide)
  · rw [DevData.optCompact_ok h]
    exact .plain _ s (.refl s)

theorem subRecord_minor (tag : U16) (id : U32) (sub : Bytes) (s : State) : MinorAnswer s (subRecord tag id sub s) := by
  obtain ⟨d, e⟩ | e | ⟨c, want, e⟩ := subRecord_cases tag id sub s <;> rw [e]
  · exact .plain _ s (.refl s)
  · exact .plain _ _ (.of_skips (.skip tag s))
  · exact .raised s _ _ (.refl s) rfl rfl (by decide)

/-- The nine instructions that parse, receive, send or restart. -/
inductive Major : Instr → Prop where
  | frame (len lenInv seq : U16) (src dst : U32) (fn : U16) (payload : Bytes) (cks : U16) :
    Major (.frame len lenInv seq src dst fn payload cks)
  | frameParse (body : Bytes) : Major (.frameParse body)
  | frameSend (seq : U16) (src dst : U32) (fn : U16) (payload : Bytes) : Major (.frameSend seq src dst fn payload)
  | rxStepFramed (ctx : Option U16) : Major (.rxStepFramed ctx)
  | rxStepPassive (ctx : Option U16) : Major (.rxStepPassive ctx)
  | endOfStream : Major .endOfStream
  | deliver (unit : Bytes) (ctx : Option U16) : Major (.deliver unit ctx)
  | sysReset : Major .sysReset
  | sysReopen (stream : List Event) : Major (.sysReopen stream)

theorem exec_frameFormat_minor {seq fn : U16} {src dst : U32} {payload : Bytes}
    (h : exec (.frameFormat seq src dst fn payload) s = .next t) :
    ∃ r, MinorAnswer s r ∧ handOver r = .next t := by
  have hexec : exec (.frameFormat seq src dst fn payload) s = execFrameFormat seq src dst fn payload s := rfl
  rw [hexec, execFrameFormat, formatFrame_eq] at h
  split_ifs at h
  exact ⟨_, .plain _ _ (.crcAcc _ s), h⟩

theorem exec_frameFilter_minor {unit : Bytes} (h : exec (.frameFilter unit) s = .next t) :
    ∃ r, MinorAnswer s r ∧ handOver r = .next t := by
  have hexec : exec (.frameFilter unit) s = execFrameFilter unit s := rfl
  rw [hexec, execFrameFilter] at h
  split_ifs at h
  · exact ⟨_, .coded _ s .allZeroDiscard (.refl s) rfl (by decide), h⟩
  · exact ⟨_, .plain _ s (.refl s), h⟩

/-- Every instruction is one of the nine or has a minor answer. -/
theorem exec_minor {i : Instr} (h : exec i s = .next t) : Major i ∨ ∃ r, MinorAnswer s r ∧ handOver r = .next t := by
  cases i
  case frame => exact .inl (.frame ..)
  case frameParse => exact .inl (.frameParse _)
  case frameSend => exact .inl (.frameSend ..)
  case rxStepFramed => exact .inl (.rxStepFramed _)
  case rxStepPassive => exact .inl (.rxStepPassive _)
  case endOfStream => exact .inl .endOfStream
  case deliver => exact .inl (.deliver _ _)
  case sysReset => exact .inl .sysReset
  case sysReopen => exact .inl (.sysReopen _)
  all_goals right
  case kZeroarg f pay => exact ⟨_, dispatchClass_minor .zeroarg f pay s, h⟩
  case kEncrypted f pay => exact ⟨_, dispatchClass_minor .encrypted f pay s, h⟩
  case kUnknown f pay => exact ⟨_, dispatchClass_minor .unknown f pay s, h⟩
  case kCtx | kOpmode | kStatus | kParam | kVersion | kOfflen | kLong | kValtype | kParamval | kTime |
      kStatusvec | kDevdata | dispatch =>
    exact ⟨_, dispatchClass_minor _ _ _ _, h⟩
  case subOptLegacy | subOptCompact | subInverter | subEvent | subOther =>
    exact ⟨_, (subRecord_minor _ _ _ _).map _, h⟩
  case crcInit => exact ⟨_, .plain _ _ (.crcAcc _ s), h⟩
  case crcStep => exact ⟨_, .plain _ _ (.crcAcc _ s), h⟩
  case crcSum bs =>
    rw [Crc.exec_crcSum] at h
    exact ⟨.ok (.crc (crcOf bs)) { s with crcAcc := crcOf bs }, .plain _ _ (.crcAcc _ s), h⟩
  case frameFormat => exact exec_frameFormat_minor h
  case frameFilter => exact exec_frameFilter_minor h
  case crcRead | coverage | resolveCtx | devNormid => exact ⟨_, .plain _ s (.refl s), h⟩
  case devOptLegacy | devInverter | devEvent => exact ⟨_, (openRecord_minor _ _ _ _ s).map _, h⟩
  case devOptCompact => exact ⟨_, (optCompact_minor _ _ s).map _, h⟩
  case devSkip tag _ _ => exact ⟨_, .plain _ _ (.of_skips (.skip tag s)), h⟩
  case decNone pay => exact ⟨_, (decoder_minor (k := .zeroarg) rfl pay s).map _, h⟩
  case decOpmode => exact ⟨_, (decoder_minor (k := .opmode) rfl _ s).map _, h⟩
  case decStatus => exact ⟨_, (decoder_minor (k := .status) rfl _ s).map _, h⟩
  case decParam => exact ⟨_, (decoder_minor (k := .param) rfl _ s).map _, h⟩
  case decVersion => exact ⟨_, (decoder_minor (k := .version) rfl _ s).map _, h⟩
  case decOfflen => exact ⟨_, (decoder_minor (k := .offlen) rfl _ s).map _, h⟩
  case decLong => exact ⟨_, (decoder_minor (k := .long) rfl _ s).map _, h⟩
  case decValtype => exact ⟨_, (decoder_minor (k := .valtype) rfl _ s).map _, h⟩
  case decParamval => exact ⟨_, (decoder_minor (k := .paramval) rfl _ s).map _, h⟩
  case decTime => exact ⟨_, (decoder_minor (k := .time) rfl _ s).map _, h⟩
  case decStatusvec => exact ⟨_, (decoder_minor (k := .statusvec) rfl _ s).map _, h⟩
  case decDevdata => exact ⟨_, (decoder_minor (k := .devdata) rfl _ s).map _, h⟩

/-! ### A property every answer leaves -/

/-- Whatever an operation answers, its state has the property. -/
def Leaves (P : State → Prop) : Res α → Prop
  | .ok _ u => P u
  | .raised u => P u

theorem Leaves.bind {P : State → Prop} {r : Res α} {f : α → State → Res β} (h : Leaves P r)
    (hf : ∀ a u, P u → Leaves P (f a u)) : Leaves P (r.bind f) := by
  cases r with
  | ok a u => exact hf a u h
  | raised u => exact h

theorem Leaves.map {P : State → Prop} {r : Res α} (f : α → β) (h : Leaves P r) : Leaves P (r.map f) := by
  cases r <;> exact h

/-- A property that does not read what is handed over stands in the next state. -/
theorem Leaves.handOver {P : State → Prop} (hret : ∀ u v, P u → P { u with ret := v }) {r : Res Ret} (h : Leaves P r)
    (he : handOver r = .next t) : P t := by
  cases r with
  | ok v u =>
    cases he
    exact hret u v h
  | raised u =>
    cases he
    exact h

/-- PARSE and DISPATCH in a row leave what each of them keeps (R153). -/
theorem parseAndDispatch_leaves {P : State → Prop} {body : Bytes} (ctx : Option U16) (hparse : Leaves P (parseBody body s))
    (hminor : ∀ u (r : Res Ret), P u → MinorAnswer u r → Leaves P r) : Leaves P (parseAndDispatch body ctx s) := by
  refine hparse.bind fun p u hu => ?_
  cases p with
  | empty => exact hu
  | message => exact hminor u _ hu (dispatchClass_minor _ _ _ _)

/-! ### The invariant -/

/-- The receiver's part of the invariant reads mode, phase, count and buffer, and that a refusal has been. -/
theorem receiverInv_of_eq (h : ReceiverInv s) (hcfg : u.cfg = s.cfg) (hphase : u.rxPhase = s.rxPhase)
    (hneed : u.rxNeed = s.rxNeed) (hbuf : u.rxBuf = s.rxBuf) (hrefused : s.stRefused = true → u.stRefused = true) :
    ReceiverInv u := by
  unfold ReceiverInv at h ⊢
  rw [hphase, hcfg, hneed, hbuf]
  rcases hp : s.rxPhase <;> simp only [hp] at h ⊢
  case desync => exact ⟨h.1, hrefused h.2⟩
  all_goals exact h

theorem inv_ret (v : Ret) (h : Inv s) : Inv { s with ret := v } :=
  ⟨h.config, h.receiver, h.payload, h.warm, h.code, h.info, h.checksums, h.tags, h.halt, h.idle⟩

theorem inv_rxs (events : List Event) (h : Inv s) : Inv { s with rxs := events } :=
  ⟨h.config, h.receiver, h.payload, h.warm, h.code, h.info, h.checksums, h.tags, h.halt, h.idle⟩

theorem inv_port (requests : List Cmd) (h : Inv s) : Inv { s with port := requests } :=
  ⟨h.config, h.receiver, h.payload, h.warm, h.code, h.info, h.checksums, h.tags, h.halt, h.idle⟩

theorem inv_touches (h : Inv s) (ht : Touches s u) : Inv u := by
  cases ht with | intro acc n tags htags =>
  exact ⟨h.config, h.receiver, h.payload, h.warm, h.code, h.info, h.checksums, htags h.tags, h.halt, h.idle⟩

/-- `ST.code` at a kind that is no error. -/
theorem inv_setCode {k : Code} (h : Inv s) (hk : k.fits .none = true) (hne : k ≠ .unknownDeviceType ∧ k ≠ .transportFault) :
    Inv (s.setCode k) where
  config := h.config
  receiver := h.receiver
  payload := h.payload
  warm := h.warm
  code := hne
  info := hk
  checksums hc := by
    rw [setCode_stCode] at hc
    rw [hc] at hk
    cases hk
  tags := h.tags
  halt := h.halt
  idle := h.idle

/-- Error entry (R258) from a state that has the invariant once its `ST.code` is overwritten. -/
theorem inv_raiseError {k : Code} {info : Info} (h : Inv (s.setCode .ok)) (hk : k.isError = true) (hfits : k.fits info = true)
    (hcks : k = .checksumMismatch → info = .checksums s.stWire s.stCalc) : Inv (raiseError k info s) where
  config := h.config
  receiver := receiverInv_of_eq (u := raiseError k info s) h.receiver rfl rfl rfl rfl fun hr => by
    rw [setCode_stRefused] at hr
    simp [hr]
  payload := h.payload
  warm := h.warm
  code := by constructor <;> (rintro rfl; cases hk)
  info := hfits
  checksums := hcks
  tags := h.tags
  halt hh := by
    rw [raiseError_stHalt, Bool.or_eq_true, Bool.and_eq_true] at hh
    exact hh.elim h.halt (·.2)
  idle := h.idle

theorem inv_ok (h : Inv s) : Inv (s.setCode .ok) := inv_setCode h rfl (by decide)

theorem minor_inv {r : Res α} (h : Inv s) (hr : MinorAnswer s r) : Leaves Inv r := by
  cases hr with
  | plain a u ht => exact inv_touches h ht
  | coded a u k ht hk hne => exact inv_setCode (inv_touches h ht) hk hne
  | raised u k info ht hk hfits hne =>
    exact inv_raiseError (inv_ok (inv_touches h ht)) hk hfits fun hc => absurd hc hne

/-! ### The invariant through the receivers (R143 to R153) -/

theorem inv_clearMessage (h : Inv s) : Inv (clearMessage s) :=
  ⟨h.config, h.receiver, Nat.zero_le _, h.warm, h.code, h.info, h.checksums, h.tags, h.halt, h.idle⟩

/-- An error of FRAME.PARSE, whatever checksums it has computed and recorded. -/
theorem inv_raiseParse {k : Code} {info : Info} (acc wire computed : U16) (h : Inv s) (hk : k.isError = true)
    (hfits : k.fits info = true) (hcks : k = .checksumMismatch → info = .checksums wire computed) :
    Inv (raiseError k info (voidMessage { s with crcAcc := acc, stWire := wire, stCalc := computed })) := by
  have hok := inv_ok h
  refine inv_raiseError ⟨hok.config, hok.receiver, voidMessage_pay_le _, hok.warm, hok.code, hok.info, nofun, hok.tags,
    hok.halt, hok.idle⟩ hk hfits hcks

theorem inv_acceptBody (body : Bytes) (h : Inv s) : Inv (acceptBody body s) := by
  have hok := inv_ok h
  have hpay : ((body.drop hdrLen).take (le16 body 0).toNat).length ≤ 65535 := by
    have := (le16 body 0).isLt
    rw [List.length_take]
    omega
  exact ⟨hok.config, hok.receiver, hpay, hok.warm, hok.code, hok.info, nofun, hok.tags, hok.halt, hok.idle⟩

theorem parseBody_inv (body : Bytes) (h : Inv s) : Leaves Inv (parseBody body s) := by
  obtain ⟨-, e⟩ | ⟨-, -, e⟩ | ⟨-, -, -, e⟩ | ⟨-, -, -, e⟩ | ⟨-, -, -, e⟩ := parseBody_cases body s <;> rw [e]
  · exact inv_setCode (inv_clearMessage h) rfl (by decide)
  · exact inv_raiseParse s.crcAcc s.stWire s.stCalc h rfl rfl nofun
  · exact inv_raiseParse s.crcAcc s.stWire s.stCalc h rfl rfl nofun
  · exact inv_raiseParse _ _ _ h rfl rfl fun _ => rfl
  · exact inv_acceptBody body h

/-- `BadMagic` is a refusal, which phase `DESYNC` follows (R149). -/
theorem inv_badMagic (unit : Bytes) (h : Inv s) (hm : s.cfg.mode = .framed) : Inv (badMagic unit s) where
  config := h.config
  receiver := ⟨hm, by simp [badMagic, Code.isRefusal]⟩
  payload := h.payload
  warm := h.warm
  code := by simp [badMagic]
  info := rfl
  checksums := nofun
  tags := h.tags
  halt hh := by
    rw [badMagic, raiseError_stHalt, Bool.or_eq_true, Bool.and_eq_true] at hh
    exact hh.elim h.halt (·.2)
  idle := h.idle

theorem deliverUnit_inv (unit : Bytes) (ctx : Option U16) (h : Inv s) : Leaves Inv (deliverUnit unit ctx s) := by
  obtain ⟨-, e⟩ | ⟨-, hm, -, e⟩ | ⟨-, body, -, e⟩ := deliverUnit_cases unit ctx s <;> rw [e]
  · exact inv_setCode h rfl (by decide)
  · exact inv_badMagic unit h hm
  · exact parseAndDispatch_leaves ctx (parseBody_inv body h) fun u r hu hr => minor_inv hu hr

theorem endStream_inv (h : Inv s) : Leaves Inv (endStream s) :=
  inv_setCode (s := { s with stPartial := s.rxBuf.length, rxBuf := [], rxPhase := .done })
    ⟨h.config, rfl, h.payload, h.warm, h.code, h.info, h.checksums, h.tags, h.halt, h.idle⟩ rfl (by decide)

/-- Another collection state that fits its phase. -/
theorem inv_collect {phase : Phase} {need : Nat} {buf : Bytes} {warm : Bool} (h : Inv s)
    (hrx : ReceiverInv { s with rxPhase := phase, rxNeed := need, rxBuf := buf, rxWarm := warm })
    (hwarm : warm = true → s.cfg.mode = .passive) :
    Inv { s with rxPhase := phase, rxNeed := need, rxBuf := buf, rxWarm := warm } :=
  ⟨h.config, hrx, h.payload, hwarm, h.code, h.info, h.checksums, h.tags, h.halt, h.idle⟩

theorem framedByte_inv (b : Byte) (ctx : Option U16) (h : Inv s) (hphase : s.rxPhase = .head ∨ s.rxPhase = .tail) :
    Leaves Inv (framedByte b ctx s) := by
  have hrx := h.receiver
  rcases Nat.lt_or_ge 1 s.rxNeed with hneed | hneed
  · rw [framedByte_collect b ctx hneed]
    refine inv_collect (phase := s.rxPhase) (warm := s.rxWarm) h ?_ h.warm
    unfold ReceiverInv at hrx ⊢
    obtain hp | hp := hphase <;> simp only [hp] at hrx ⊢
    · obtain ⟨hm, -, hsum⟩ := hrx
      exact ⟨hm, by omega, by simp; omega⟩
    · obtain ⟨hm, -, h20, hsum⟩ := hrx
      rw [le16_append_left _ _ _ (by omega)]
      exact ⟨hm, by omega, by simp; omega, by simp; omega⟩
  obtain hp | hp := hphase
  · simp only [ReceiverInv, hp] at hrx
    obtain ⟨hm, hpos, hsum⟩ := hrx
    rw [framedByte_tail b ctx (by omega) hp]
    exact inv_collect (warm := s.rxWarm) h ⟨hm, Nat.succ_pos _, by simp; omega, by simp; omega⟩ h.warm
  · simp only [ReceiverInv, hp] at hrx
    obtain ⟨hm, hpos, -⟩ := hrx
    rw [framedByte_deliver b ctx (by omega) hp]
    exact deliverUnit_inv _ ctx (inv_collect (warm := s.rxWarm) h ⟨hm, Nat.succ_pos _, rfl⟩ h.warm)

theorem passiveByte_inv (b : Byte) (ctx : Option U16) (h : Inv s) (hphase : s.rxPhase = .scan) :
    Leaves Inv (passiveByte b ctx s) := by
  have hrx := h.receiver
  simp only [ReceiverInv, hphase] at hrx
  obtain ⟨hm, hbuf⟩ := hrx
  have hscan (buf : Bytes) (warm : Bool) (hb : noMagic buf = true) : Inv { s with rxBuf := buf, rxWarm := warm } := by
    refine inv_collect (phase := s.rxPhase) (need := s.rxNeed) h ?_ fun _ => hm
    simp only [ReceiverInv, hphase]
    exact ⟨hm, hb⟩
  rcases hend : endsWithMagic (s.rxBuf ++ [b]) with _ | _
  · rw [passiveByte_collect b ctx hend]
    exact hscan _ s.rxWarm (noMagic_snoc hbuf hend)
  · rcases hw : s.rxWarm with _ | _
    · obtain ⟨unit, hunit⟩ := (endsWithMagic_iff _).mp hend
      rw [passiveByte_deliver b ctx hunit hw]
      exact deliverUnit_inv unit ctx (hscan [] s.rxWarm rfl)
    · rw [passiveByte_warm b ctx hend hw]
      exact inv_setCode (hscan [] false rfl) rfl (by decide)

theorem receive_inv {onByte : Byte → State → Res Ret} (h : Inv s)
    (hbyte : ∀ b rest, Leaves Inv (onByte b { s with rxs := rest })) : Leaves Inv (receive onByte s) := by
  obtain ⟨b, rest, -, e⟩ | ⟨rest, -, e⟩ | ⟨rest, -, e⟩ := receive_cases onByte s <;> rw [e]
  · exact hbyte b rest
  · exact inv_rxs rest h
  · exact endStream_inv (inv_rxs rest h)

/-! ### The invariant through restarts (R266, R280) -/

theorem inv_restartReceiver (h : Inv s) : Inv (restartReceiver s) := by
  rcases hm : s.cfg.mode
  · rw [Reset.restartReceiver_framed hm]
    exact inv_collect h ⟨hm, Nat.succ_pos _, rfl⟩ nofun
  · rw [Reset.restartReceiver_passive hm]
    exact inv_collect h ⟨hm, rfl⟩ fun _ => hm

/-- What SYS.RESET leaves depends on the configuration alone, as far as the invariant reads it. -/
theorem inv_resetBlock (h : s.cfg.wf = true) : Inv (resetBlock s) := by
  rcases hm : s.cfg.mode
  · rw [resetBlock, Reset.restartReceiver_framed hm]
    exact ⟨h, ⟨hm, Nat.succ_pos _, rfl⟩, Nat.zero_le _, nofun, ⟨nofun, nofun⟩, rfl, nofun, rfl, nofun, rfl⟩
  · rw [resetBlock, Reset.restartReceiver_passive hm]
    exact ⟨h, ⟨hm, rfl⟩, Nat.zero_le _, fun _ => hm, ⟨nofun, nofun⟩, rfl, nofun, rfl, nofun, rfl⟩

theorem inv_resetOf {cfg : Cfg} (h : cfg.wf = true) : Inv (State.resetOf cfg) := by
  have hrx : ReceiverInv (State.resetOf cfg) := by
    rcases hm : cfg.mode <;> simp [ReceiverInv, State.resetOf, Phase.start, hm, noMagic]
  exact ⟨h, hrx, Nat.zero_le _, of_decide_eq_true, ⟨nofun, nofun⟩, rfl, nofun, rfl, nofun, rfl⟩

theorem sample_wf : Cfg.sample.wf = true := by decide +kernel

/-- Settles O56: the invariant at both forms of reset. -/
theorem resetHasTheInvariant : Obligations.ResetHasTheInvariant := by
  refine ⟨fun cfg => inv_resetOf, inv_resetOf sample_wf, fun s t hwf h => ?_⟩
  rw [Reset.exec_sysReset] at h
  cases h
  exact inv_ret .none (inv_resetBlock hwf)

/-! ### Every step keeps the invariant -/

theorem leaves_inv_handOver {r : Res Ret} (h : Leaves Inv r) (he : handOver r = .next t) : Inv t :=
  h.handOver (fun _ v => inv_ret v) he

theorem exec_inv_of_major {i : Instr} (hi : Major i) (h : Inv s) (he : exec i s = .next t) : Inv t := by
  cases hi with
  | frame => exact leaves_inv_handOver ((parseBody_inv _ h).map _) he
  | frameParse body => exact leaves_inv_handOver ((parseBody_inv body h).map _) he
  | frameSend =>
    rw [Reset.exec_frameSend_next he, sendFrame_eq]
    exact ⟨h.config, h.receiver, h.payload, h.warm, h.code, h.info, h.checksums, h.tags, h.halt, rfl⟩
  | rxStepFramed ctx =>
    obtain ⟨hb, he⟩ := whenEnabled_eq_next he
    obtain ⟨-, -, hphase⟩ := (framedBlocked_none s).mp hb
    exact leaves_inv_handOver (receive_inv h fun b rest => framedByte_inv b ctx (inv_rxs rest h) hphase) he
  | rxStepPassive ctx =>
    obtain ⟨hb, he⟩ := whenEnabled_eq_next he
    obtain ⟨-, -, hphase⟩ := (passiveBlocked_none s).mp hb
    exact leaves_inv_handOver (receive_inv h fun b rest => passiveByte_inv b ctx (inv_rxs rest h) hphase) he
  | endOfStream => exact leaves_inv_handOver (endStream_inv h) (whenEnabled_eq_next he).2
  | deliver unit ctx => exact leaves_inv_handOver (deliverUnit_inv unit ctx h) (whenEnabled_eq_next he).2
  | sysReset =>
    rw [Reset.exec_sysReset] at he
    cases he
    exact inv_ret .none (inv_resetBlock h.config)
  | sysReopen stream =>
    obtain ⟨-, rfl⟩ := Reset.exec_sysReopen_next he
    obtain ⟨hconfig, hrx, hpay, hwarm, hcode, hinfo, hcks, htags, hhalt, hidle⟩ := inv_restartReceiver h
    exact ⟨hconfig, hrx, hpay, hwarm, hcode, hinfo, hcks, htags, hhalt, hidle⟩

theorem exec_inv {i : Instr} (h : Inv s) (he : exec i s = .next t) : Inv t := by
  obtain hi | ⟨r, hr, he⟩ := exec_minor he
  · exact exec_inv_of_major hi h he
  · exact leaves_inv_handOver (minor_inv h hr) he

/-- Settles O57: a step runs one instruction, which keeps the invariant. -/
theorem everyStepKeepsTheInvariant : Obligations.EveryStepKeepsTheInvariant := by
  intro s t h hstep
  obtain ⟨c, rest, i, -, -, he⟩ | ⟨-, he⟩ := step_eq_next hstep
  · exact exec_inv (inv_port rest h) he
  · exact exec_inv h he

/-! ### The Message registers (R23, R24, R143) -/

theorem minor_keepsMessage {r : Res α} (hr : MinorAnswer s r) : KeepsMessage s r := by
  have htouch (u : State) (h : Touches s u) : SameMessage s u := by
    cases h
    exact .refl s
  cases hr with
  | plain a u h => exact htouch u h
  | coded a u k h => exact htouch u h
  | raised u k info h => exact htouch u h

theorem leavesMessage_handOver {r : Res Parsed} (h : LeavesMessage r) (he : handOver (r.map Parsed.toRet) = .next t) :
    MessageSettled t := by
  cases r <;> cases he <;> exact h

theorem restartReceiver_sameMessage (s : State) : SameMessage s (restartReceiver s) := by
  unfold restartReceiver
  split <;> exact .refl s

/-- Settles O55: a minor answer keeps the registers; of the nine other instructions each that parses leaves them settled, SYS.RESET
clears them, and the rest keep them. -/
theorem messageRegistersAreWrittenWhole : Obligations.MessageRegistersAreWrittenWhole := by
  intro i s t he
  obtain hi | ⟨r, hr, he⟩ := exec_minor he
  swap
  · exact .inl (keepsMessage_handOver (minor_keepsMessage hr) he)
  cases hi with
  | frame => exact .inr ⟨.inl ⟨_, _, _, _, _, _, _, _, rfl⟩, leavesMessage_handOver (parse_leavesMessage _ s) he⟩
  | frameParse body => exact .inr ⟨.inr (.inl ⟨body, rfl⟩), leavesMessage_handOver (parse_leavesMessage body s) he⟩
  | frameSend =>
    rw [Reset.exec_frameSend_next he, sendFrame_eq]
    exact .inl (.refl s)
  | rxStepFramed ctx =>
    obtain ⟨-, he⟩ := whenEnabled_eq_next he
    exact (messageAnswer_handOver (receive_message _ s fun b rest => framedByte_message b ctx { s with rxs := rest }) he).imp_right
      fun h => ⟨.inr (.inr (.inr (.inl ⟨ctx, rfl⟩))), h⟩
  | rxStepPassive ctx =>
    obtain ⟨-, he⟩ := whenEnabled_eq_next he
    exact (messageAnswer_handOver (receive_message _ s fun b rest => passiveByte_message b ctx { s with rxs := rest }) he).imp_right
      fun h => ⟨.inr (.inr (.inr (.inr (.inl ⟨ctx, rfl⟩)))), h⟩
  | endOfStream =>
    obtain ⟨-, he⟩ := whenEnabled_eq_next he
    exact .inl (keepsMessage_handOver (r := endStream s) (.refl s) he)
  | deliver unit ctx =>
    obtain ⟨-, he⟩ := whenEnabled_eq_next he
    exact (messageAnswer_handOver (deliver_message unit ctx s) he).imp_right fun h => ⟨.inr (.inr (.inl ⟨unit, ctx, rfl⟩)), h⟩
  | sysReset =>
    rw [Reset.exec_sysReset] at he
    cases he
    exact .inr ⟨.inr (.inr (.inr (.inr (.inr rfl)))), .inl ⟨rfl, rfl, rfl, rfl, rfl, rfl, rfl, rfl⟩⟩
  | sysReopen stream =>
    obtain ⟨-, rfl⟩ := Reset.exec_sysReopen_next he
    exact .inl (restartReceiver_sameMessage s)

/-! ### The terminal phases (R38, R149, R152) -/

/-- An answer that reaches phase `DESYNC` or `DONE` from another phase has raised `BadMagic`, or ended the stream. -/
def EntersTerminal (s : State) : Res Ret → Prop
  | .ok v u =>
    (u.rxPhase = .desync → s.rxPhase = .desync) ∧
      (u.rxPhase = .done → s.rxPhase = .done ∨ (u.stCode = .noMessage ∧ u.rxBuf = [] ∧ v = .noMessage))
  | .raised u =>
    (u.rxPhase = .desync → s.rxPhase = .desync ∨ (u.stCode = .badMagic ∧ u.stRefused = true ∧ u.ret = .none)) ∧
      (u.rxPhase = .done → s.rxPhase = .done)

theorem entersTerminal_of_phase {p : Phase} {r : Res Ret} (h : Leaves (fun u => u.rxPhase = p) r)
    (hp : p = s.rxPhase ∨ (p ≠ .done ∧ p ≠ .desync)) : EntersTerminal s r := by
  have hnot {q : Phase} (hq : p = q) (hterm : q = .done ∨ q = .desync) : s.rxPhase = q := by
    obtain hs | ⟨hdone, hdesync⟩ := hp
    · exact hs.symm.trans hq
    · obtain rfl | rfl := hterm
      · exact absurd hq hdone
      · exact absurd hq hdesync
  cases r with
  | ok v u =>
    obtain rfl : u.rxPhase = p := h
    exact ⟨fun hu => hnot hu (.inr rfl), fun hu => .inl (hnot hu (.inl rfl))⟩
  | raised u =>
    obtain rfl : u.rxPhase = p := h
    exact ⟨fun hu => .inl (hnot hu (.inr rfl)), fun hu => hnot hu (.inl rfl)⟩

theorem minor_phase {r : Res α} {p : Phase} (hs : s.rxPhase = p) (hr : MinorAnswer s r) : Leaves (fun u => u.rxPhase = p) r := by
  have htouch (u : State) (h : Touches s u) : u.rxPhase = p := by
    cases h
    exact hs
  cases hr with
  | plain a u h => exact htouch u h
  | coded a u k h => exact htouch u h
  | raised u k info h => exact htouch u h

theorem parseBody_phase (body : Bytes) (s : State) : Leaves (fun u => u.rxPhase = s.rxPhase) (parseBody body s) := by
  obtain ⟨-, e⟩ | ⟨-, -, e⟩ | ⟨-, -, -, e⟩ | ⟨-, -, -, e⟩ | ⟨-, -, -, e⟩ := parseBody_cases body s <;> rw [e]
  all_goals exact (rfl : s.rxPhase = s.rxPhase)

/-- DELIVER from a state `u` whose phase is that of `s` or a collecting one. -/
theorem deliverUnit_entersTerminal (unit : Bytes) (ctx : Option U16)
    (hu : u.rxPhase = s.rxPhase ∨ (u.rxPhase ≠ .done ∧ u.rxPhase ≠ .desync)) :
    EntersTerminal s (deliverUnit unit ctx u) := by
  obtain ⟨-, e⟩ | ⟨-, -, -, e⟩ | ⟨-, body, -, e⟩ := deliverUnit_cases unit ctx u <;> rw [e]
  · exact entersTerminal_of_phase (p := u.rxPhase) rfl hu
  · exact ⟨fun _ => .inr ⟨rfl, by simp [badMagic, Code.isRefusal], rfl⟩, nofun⟩
  · exact entersTerminal_of_phase
      (parseAndDispatch_leaves ctx (parseBody_phase body u) fun v r hv hr => minor_phase hv hr) hu

theorem endStream_entersTerminal (s u : State) : EntersTerminal s (endStream u) :=
  ⟨nofun, fun _ => .inr ⟨rfl, rfl, rfl⟩⟩

theorem framedByte_entersTerminal (b : Byte) (ctx : Option U16) (s : State) : EntersTerminal s (framedByte b ctx s) := by
  unfold framedByte
  dsimp only
  split_ifs
  · exact entersTerminal_of_phase (p := s.rxPhase) rfl (.inl rfl)
  · exact entersTerminal_of_phase (p := .tail) rfl (.inr ⟨nofun, nofun⟩)
  · exact deliverUnit_entersTerminal _ ctx (.inr ⟨nofun, nofun⟩)

theorem passiveByte_entersTerminal (b : Byte) (ctx : Option U16) (s : State) : EntersTerminal s (passiveByte b ctx s) := by
  unfold passiveByte
  dsimp only
  split_ifs
  · exact entersTerminal_of_phase (p := s.rxPhase) rfl (.inl rfl)
  · exact deliverUnit_entersTerminal _ ctx (.inl rfl)
  · exact entersTerminal_of_phase (p := s.rxPhase) rfl (.inl rfl)

theorem receive_entersTerminal {onByte : Byte → State → Res Ret} (s : State)
    (hbyte : ∀ b rest, EntersTerminal s (onByte b { s with rxs := rest })) : EntersTerminal s (receive onByte s) := by
  obtain ⟨b, rest, -, e⟩ | ⟨rest, -, e⟩ | ⟨rest, -, e⟩ := receive_cases onByte s <;> rw [e]
  · exact hbyte b rest
  · exact entersTerminal_of_phase (p := s.rxPhase) rfl (.inl rfl)
  · exact endStream_entersTerminal s _

/-- How a step enters phase `DESYNC` and phase `DONE`. -/
def EntryRule (s t : State) : Prop :=
  (s.rxPhase ≠ .desync → t.rxPhase = .desync → t.stCode = .badMagic ∧ t.stRefused = true ∧ t.ret = .none) ∧
    (s.rxPhase ≠ .done → t.rxPhase = .done → t.stCode = .noMessage ∧ t.rxBuf = [] ∧ t.ret = .noMessage)

theorem EntersTerminal.handOver {r : Res Ret} (h : EntersTerminal s r) (he : handOver r = .next t) : EntryRule s t := by
  cases r with
  | ok v u =>
    cases he
    obtain ⟨hdesync, hdone⟩ := h
    exact ⟨fun hs ht => absurd (hdesync ht) hs, fun hs ht => (hdone ht).resolve_left hs⟩
  | raised u =>
    cases he
    obtain ⟨hdesync, hdone⟩ := h
    exact ⟨fun hs ht => (hdesync ht).resolve_left hs, fun hs ht => absurd (hdone ht) hs⟩

theorem entryRule_of_phase (h : t.rxPhase = s.rxPhase ∨ (t.rxPhase ≠ .done ∧ t.rxPhase ≠ .desync)) : EntryRule s t := by
  obtain h | ⟨hdone, hdesync⟩ := h
  · exact ⟨fun hs ht => absurd (h.symm.trans ht) hs, fun hs ht => absurd (h.symm.trans ht) hs⟩
  · exact ⟨fun _ ht => absurd ht hdesync, fun _ ht => absurd ht hdone⟩

theorem restartReceiver_phase (s : State) : (restartReceiver s).rxPhase ≠ .done ∧ (restartReceiver s).rxPhase ≠ .desync := by
  unfold restartReceiver
  split <;> exact ⟨nofun, nofun⟩

theorem exec_entryRule {i : Instr} (he : exec i s = .next t) : EntryRule s t := by
  obtain hi | ⟨r, hr, he⟩ := exec_minor he
  swap
  · exact (entersTerminal_of_phase (minor_phase rfl hr) (.inl rfl)).handOver he
  cases hi with
  | frame => exact (entersTerminal_of_phase ((parseBody_phase _ s).map _) (.inl rfl)).handOver he
  | frameParse body => exact (entersTerminal_of_phase ((parseBody_phase body s).map _) (.inl rfl)).handOver he
  | frameSend =>
    rw [Reset.exec_frameSend_next he, sendFrame_eq]
    exact entryRule_of_phase (.inl rfl)
  | rxStepFramed ctx =>
    obtain ⟨-, he⟩ := whenEnabled_eq_next he
    exact (receive_entersTerminal s fun b rest => framedByte_entersTerminal b ctx { s with rxs := rest }).handOver he
  | rxStepPassive ctx =>
    obtain ⟨-, he⟩ := whenEnabled_eq_next he
    exact (receive_entersTerminal s fun b rest => passiveByte_entersTerminal b ctx { s with rxs := rest }).handOver he
  | endOfStream => exact (endStream_entersTerminal s s).handOver (whenEnabled_eq_next he).2
  | deliver unit ctx => exact (deliverUnit_entersTerminal unit ctx (.inl rfl)).handOver (whenEnabled_eq_next he).2
  | sysReset =>
    rw [Reset.exec_sysReset] at he
    cases he
    exact entryRule_of_phase (.inr (restartReceiver_phase s))
  | sysReopen stream =>
    obtain ⟨-, rfl⟩ := Reset.exec_sysReopen_next he
    exact entryRule_of_phase (.inr (restartReceiver_phase s))

theorem phase_of_effect (h : Effect s t) (hdone : s.rxPhase = .done) : t.rxPhase = .done := by
  have hreads (v : State) (hv : Reads s v) : v.rxPhase = .done := by
    obtain hphase | ⟨hnot, -⟩ := hv.phase
    · exact hphase.trans hdone
    · exact absurd hdone hnot
  obtain h | ⟨v, k, info, hv, rfl, -⟩ := h
  · exact hreads t h
  · exact hreads v hv

theorem exec_leavesDone {i : Instr} (he : exec i s = .next t) (hdone : s.rxPhase = .done) :
    i = .sysReset ∨ (∃ stream, i = .sysReopen stream) ∨ t.rxPhase = .done := by
  obtain h | h | h | ⟨seq, src, dst, fn, payload, rfl⟩ := exec_effect i s t he
  · exact .inr (.inr (phase_of_effect h hdone))
  · exact .inl h
  · exact .inr (.inl h)
  · rw [Reset.exec_frameSend_next he, sendFrame_eq]
    exact .inr (.inr hdone)

/-- Settles O58: the two ways in by the answer of each instruction, the ways out by what every instruction keeps. -/
theorem terminalPhases : Obligations.TerminalPhases := by
  intro i s t he
  obtain ⟨hdesync, hdone⟩ := exec_entryRule he
  refine ⟨hdesync, fun hs => ?_, hdone, exec_leavesDone he⟩
  by_cases hi : i = .sysReset
  · exact .inl hi
  · exact .inr ((Reset.exec_keepsMarks he hi).desync hs)

/-! ### The error policy (R257, R258) -/

/-- The two marks are set together with the error that sets them. -/
def MarkRule (s t : State) : Prop :=
  (s.stHalt = false → t.stHalt = true → s.cfg.haltOnError = true ∧ t.stCode.isError = true ∧ t.ret = .none) ∧
    (s.stRefused = false → t.stRefused = true → t.stCode.isRefusal = true ∧ t.ret = .none)

theorem markRule_of_eq (hhalt : t.stHalt = s.stHalt) (hrefused : t.stRefused = s.stRefused) : MarkRule s t := by
  refine ⟨fun hs ht => ?_, fun hs ht => ?_⟩
  · rw [hhalt, hs] at ht
    cases ht
  · rw [hrefused, hs] at ht
    cases ht

theorem markRule_raiseError {v : State} (k : Code) (info : Info) (hv : Reads s v) : MarkRule s (raiseError k info v) := by
  refine ⟨fun hs ht => ?_, fun hs ht => ?_⟩
  · rw [raiseError_stHalt, hv.halt, hs, Bool.false_or, Bool.and_eq_true, hv.cfg] at ht
    exact ⟨ht.2, ht.1, rfl⟩
  · rw [raiseError_stRefused, hv.refused, hs, Bool.false_or] at ht
    exact ⟨ht, rfl⟩

/-- Settles O59: the marks are kept, or set by the error entry, or cleared by SYS.RESET. -/
theorem errorPolicy : Obligations.ErrorPolicy := by
  intro i s t he
  show MarkRule s t
  obtain (h | ⟨v, k, info, hv, rfl, -⟩) | rfl | ⟨stream, rfl⟩ | ⟨seq, src, dst, fn, payload, rfl⟩ := exec_effect i s t he
  · exact markRule_of_eq h.halt h.refused
  · exact markRule_raiseError k info hv
  · rw [Reset.exec_sysReset] at he
    cases he
    exact ⟨nofun, nofun⟩
  · obtain ⟨-, rfl⟩ := Reset.exec_sysReopen_next he
    exact markRule_of_eq (Reset.restartReceiver_stHalt s) (Reset.restartReceiver_stRefused s)
  · rw [Reset.exec_frameSend_next he, sendFrame_eq]
    exact markRule_of_eq rfl rfl

/-! ### Streams, configuration and host side -/

/-- A receiver restart writes the collection state alone. -/
theorem restartReceiver_frame (s : State) :
    (restartReceiver s).cfg = s.cfg ∧ (restartReceiver s).hostCtx = s.hostCtx ∧ (restartReceiver s).port = s.port ∧
      (restartReceiver s).rxs = s.rxs ∧ (restartReceiver s).txs = s.txs := by
  unfold restartReceiver
  split <;> exact ⟨rfl, rfl, rfl, rfl, rfl⟩

/-- Settles O60: an instruction reads at most one event and may raise; the three others are SYS.RESET, SYS.REOPEN, FRAME.SEND. -/
theorem streamsAndConfigurationFrame : Obligations.StreamsAndConfigurationFrame := by
  intro i s t he
  obtain (h | ⟨v, k, info, h, rfl, -⟩) | rfl | ⟨stream, rfl⟩ | ⟨seq, src, dst, fn, payload, rfl⟩ := exec_effect i s t he
  · exact ⟨h.cfg, h.hostCtx, h.port, .inr ⟨h.rxs, .inl h.txs⟩⟩
  · exact ⟨h.cfg, h.hostCtx, h.port, .inr ⟨h.rxs, .inl h.txs⟩⟩
  · obtain ⟨hcfg, hctx, hport, hrxs, htxs⟩ := restartReceiver_frame s
    rw [Reset.exec_sysReset] at he
    cases he
    exact ⟨hcfg, hctx, hport, .inr ⟨.inl hrxs, .inl htxs⟩⟩
  · obtain ⟨hcfg, hctx, hport, -, -⟩ := restartReceiver_frame s
    obtain ⟨-, rfl⟩ := Reset.exec_sysReopen_next he
    exact ⟨hcfg, hctx, hport, .inl ⟨stream, rfl, rfl, rfl⟩⟩
  · rw [Reset.exec_frameSend_next he, sendFrame_eq]
    exact ⟨rfl, rfl, rfl, .inr ⟨.inl rfl, .inr ⟨seq, src, dst, fn, payload, rfl, rfl⟩⟩⟩

/-! ### SYS.REOPEN (R266) -/

/-- Settles O49: in phase `DONE` the restarted receiver on the new streams, elsewhere the fault. -/
theorem reopenRestartsTheReceiver : Obligations.ReopenRestartsTheReceiver := by
  intro stream s
  have hexec : exec (.sysReopen stream) s = execSysReopen stream s := rfl
  rw [hexec, execSysReopen]
  refine ⟨fun hdone hm => ?_, fun hdone hm => ?_, fun hdone => if_neg hdone⟩
  · rw [if_pos hdone, Reset.restartReceiver_framed hm, handOver_ok]
  · rw [if_pos hdone, Reset.restartReceiver_passive hm, handOver_ok]

end Sys2Proof.Proofs.WholeMachine
end

section
/-! PROOFS. The receivers (R148 to R153): one step of each on each kind of event, and whole units collected step by step, from the
first byte to DISPATCH. -/

namespace Sys2Proof.Proofs.Receivers

open Sys2Proof.Machine Sys2Proof.Claim

variable {s : State} {ctx : Option U16} {rest : List Event}

/-! ### When a receiver operation stops (R38, R39, R148, R150) -/

theorem whenEnabled_some {blocked : Option Fault} {f : Fault} (h : blocked = some f) (r : Res Ret) :
    whenEnabled blocked r = .fault f := by
  rw [h, whenEnabled]

theorem framedBlocked_halted (h : s.stHalt = true) : framedBlocked s = some .halted := if_pos h

theorem passiveBlocked_halted (h : s.stHalt = true) : passiveBlocked s = some .halted := if_pos h

section
variable (hhalt : s.stHalt = false)
include hhalt

theorem framedBlocked_wrongMode (hm : s.cfg.mode = .passive) : framedBlocked s = some .wrongMode := by
  simp [framedBlocked, hhalt, hm]

theorem passiveBlocked_wrongMode (hm : s.cfg.mode = .framed) : passiveBlocked s = some .wrongMode := by
  simp [passiveBlocked, hhalt, hm]

theorem framedBlocked_done (hm : s.cfg.mode = .framed) (hp : s.rxPhase = .done) : framedBlocked s = some .receiverDone := by
  simp [framedBlocked, hhalt, hm, hp]

theorem passiveBlocked_done (hm : s.cfg.mode = .passive) (hp : s.rxPhase = .done) :
    passiveBlocked s = some .receiverDone := by
  simp [passiveBlocked, hhalt, hm, hp]

theorem framedBlocked_desync (hm : s.cfg.mode = .framed) (hp : s.rxPhase = .desync) :
    framedBlocked s = some .receiverDesync := by
  simp [framedBlocked, hhalt, hm, hp]

theorem passiveBlocked_desync (hm : s.cfg.mode = .passive) (hp : s.rxPhase = .desync) :
    passiveBlocked s = some .receiverDesync := by
  simp [passiveBlocked, hhalt, hm, hp]

end

/-- A fault both receivers stop with, each in its mode, is the receiver's. -/
theorem receiverBlocked_some {f : Fault} (hf : s.cfg.mode = .framed → framedBlocked s = some f)
    (hp : s.cfg.mode = .passive → passiveBlocked s = some f) : receiverBlocked s = some f := by
  unfold receiverBlocked
  split
  case h_1 hm => exact hf hm
  case h_2 hm => exact hp hm

/-- END_OF_STREAM and DELIVER stop with the receiver's fault (log entry 6). -/
theorem exec_receiverParts_fault {f : Fault} (h : receiverBlocked s = some f) (unit : Bytes) (ctx : Option U16) :
    exec .endOfStream s = .fault f ∧ exec (.deliver unit ctx) s = .fault f :=
  ⟨whenEnabled_some h _, whenEnabled_some h _⟩

/-- Settles O21: each clause is one way of being blocked. -/
theorem receiverIsNotEnabled : Obligations.ReceiverIsNotEnabled := by
  intro ctx unit s
  refine ⟨fun hhalt => ?_, fun hhalt hm => whenEnabled_some (passiveBlocked_wrongMode hhalt hm) _,
    fun hhalt hm => whenEnabled_some (framedBlocked_wrongMode hhalt hm) _,
    fun hhalt hm hp => whenEnabled_some (framedBlocked_done hhalt hm hp) _,
    fun hhalt hm hp => whenEnabled_some (passiveBlocked_done hhalt hm hp) _,
    fun hhalt hm hp => whenEnabled_some (framedBlocked_desync hhalt hm hp) _, fun hhalt hp => ?_, fun hhalt hp => ?_⟩
  · have hblocked := receiverBlocked_some (fun _ => framedBlocked_halted hhalt) fun _ => passiveBlocked_halted hhalt
    exact ⟨whenEnabled_some (framedBlocked_halted hhalt) _, whenEnabled_some (passiveBlocked_halted hhalt) _,
      exec_receiverParts_fault hblocked unit ctx⟩
  · exact exec_receiverParts_fault
      (receiverBlocked_some (framedBlocked_done hhalt · hp) (passiveBlocked_done hhalt · hp)) unit ctx
  · exact exec_receiverParts_fault
      (receiverBlocked_some (framedBlocked_desync hhalt · hp) (passiveBlocked_desync hhalt · hp)) unit ctx

/-! ### One step of an enabled receiver, whatever its mode -/

theorem canReceive_rxs (events : List Event) : CanReceive { s with rxs := events } ↔ CanReceive s := by
  rw [CanReceive, CanReceive, receiverBlocked_congr (s := s) (t := { s with rxs := events }) rfl rfl rfl]

theorem exec_endOfStream_enabled (h : CanReceive s) : exec .endOfStream s = handOver (endStream s) :=
  Frame.whenEnabled_none h _

section
variable {onByte : Byte → State → Res Ret}

theorem handOver_receive_hold (h : s.rxs = .empty :: rest) (hl : s.cfg.live = true) :
    handOver (receive onByte s) = .next { s with rxs := rest, ret := .none } := by
  rw [receive_hold h hl, handOver_ok]

theorem handOver_receive_eos (hs : CanReceive s) (h : s.rxs = .fault :: rest ∨ (s.rxs = .empty :: rest ∧ s.cfg.live = false)) :
    handOver (receive onByte s) = exec .endOfStream { s with rxs := rest } := by
  rw [receive_eos h, exec_endOfStream_enabled ((canReceive_rxs rest).mpr hs)]

theorem handOver_receive_exhausted_live (h : s.rxs = []) (hl : s.cfg.live = true) :
    handOver (receive onByte s) = .next { s with ret := .none } := by
  rw [receive_exhausted h, if_pos hl, handOver_ok]

theorem handOver_receive_exhausted_finite (hs : CanReceive s) (h : s.rxs = []) (hl : s.cfg.live = false) :
    handOver (receive onByte s) = exec .endOfStream s := by
  rw [receive_exhausted h, if_neg (by simp [hl]), exec_endOfStream_enabled hs]

end

/-! ### The framed receiver (R148) -/

/-- The framed receiver is collecting: no halt, its mode, one of its phases. -/
structure Framed (s : State) : Prop where
  halt : s.stHalt = false
  mode : s.cfg.mode = .framed
  phase : s.rxPhase = .head ∨ s.rxPhase = .tail

theorem Framed.canReceive (h : Framed s) : CanReceive s :=
  (receiverBlocked_none s).mpr ⟨h.halt, .inl ⟨h.mode, h.phase⟩⟩

theorem Framed.exec (h : Framed s) (ctx : Option U16) :
    Sys2Proof.Machine.exec (.rxStepFramed ctx) s = handOver (receive (fun b t => framedByte b ctx t) s) :=
  Frame.whenEnabled_none ((framedBlocked_none s).mpr ⟨h.halt, h.mode, h.phase⟩) _

section
variable {b : Byte} (h : Framed s) (hrxs : s.rxs = .byte b :: rest)
include h hrxs

theorem exec_framed_collect (ctx : Option U16) (hneed : 2 ≤ s.rxNeed) :
    exec (.rxStepFramed ctx) s =
      .next { s with rxs := rest, rxBuf := s.rxBuf ++ [b], rxNeed := s.rxNeed - 1, ret := .none } := by
  rw [h.exec, receive_byte hrxs, framedByte_collect (s := { s with rxs := rest }) b ctx hneed, handOver_ok]

theorem exec_framed_tail (ctx : Option U16) (hneed : s.rxNeed = 1) (hp : s.rxPhase = .head) :
    exec (.rxStepFramed ctx) s =
      .next
        { s with
          rxs := rest, rxBuf := s.rxBuf ++ [b], rxPhase := .tail
          rxNeed := (le16 (s.rxBuf ++ [b]) 4).toNat + 2, ret := .none } := by
  rw [h.exec, receive_byte hrxs, framedByte_tail (s := { s with rxs := rest }) b ctx hneed hp, handOver_ok]

theorem exec_framed_deliver (ctx : Option U16) (hneed : s.rxNeed = 1) (hp : s.rxPhase = .tail) :
    exec (.rxStepFramed ctx) s =
      exec (.deliver (s.rxBuf ++ [b]) ctx) { s with rxs := rest, rxBuf := [], rxPhase := .head, rxNeed := 20 } := by
  have hnext : Framed { s with rxs := rest, rxBuf := [], rxPhase := .head, rxNeed := 20 } := ⟨h.halt, h.mode, .inl rfl⟩
  rw [h.exec, receive_byte hrxs, framedByte_deliver (s := { s with rxs := rest }) b ctx hneed hp, Frame.exec_deliver hnext.canReceive]

end

/-- Settles O17: the three cases of a byte, and the events that are none. -/
theorem framedReceiverStep : Obligations.FramedReceiverStep := by
  intro ctx rest s hhalt hmode hphase
  have h : Framed s := ⟨hhalt, hmode, hphase⟩
  refine ⟨fun b hrxs => ⟨exec_framed_collect h hrxs ctx, exec_framed_tail h hrxs ctx, exec_framed_deliver h hrxs ctx⟩,
    fun hrxs hl => ?_, fun hrxs => ?_, fun hrxs hl => ?_, fun hrxs hl => ?_⟩ <;> rw [h.exec]
  · exact handOver_receive_hold hrxs hl
  · exact handOver_receive_eos h.canReceive hrxs
  · exact handOver_receive_exhausted_live hrxs hl
  · exact handOver_receive_exhausted_finite h.canReceive hrxs hl

/-! ### The passive receiver (R150, R151) -/

/-- The passive receiver is collecting. -/
structure Passive (s : State) : Prop where
  halt : s.stHalt = false
  mode : s.cfg.mode = .passive
  phase : s.rxPhase = .scan

theorem Passive.canReceive (h : Passive s) : CanReceive s :=
  (receiverBlocked_none s).mpr ⟨h.halt, .inr ⟨h.mode, h.phase⟩⟩

theorem Passive.exec (h : Passive s) (ctx : Option U16) :
    Sys2Proof.Machine.exec (.rxStepPassive ctx) s = handOver (receive (fun b t => passiveByte b ctx t) s) :=
  Frame.whenEnabled_none ((passiveBlocked_none s).mpr ⟨h.halt, h.mode, h.phase⟩) _

section
variable {b : Byte} (h : Passive s) (hrxs : s.rxs = .byte b :: rest)
include h hrxs

theorem exec_passive_collect (ctx : Option U16) (hend : ¬ ∃ unit, s.rxBuf ++ [b] = unit ++ magic) :
    exec (.rxStepPassive ctx) s = .next { s with rxs := rest, rxBuf := s.rxBuf ++ [b], ret := .none } := by
  rw [← endsWithMagic_iff, Bool.not_eq_true] at hend
  rw [h.exec, receive_byte hrxs, passiveByte_collect (s := { s with rxs := rest }) b ctx hend, handOver_ok]

theorem exec_passive_warm (ctx : Option U16) {unit : Bytes} (hunit : s.rxBuf ++ [b] = unit ++ magic) (hw : s.rxWarm = true) :
    exec (.rxStepPassive ctx) s =
      .next
        { s with rxs := rest, rxBuf := [], rxWarm := false, stCode := .warmupDiscard, stInfo := .none, ret := .none } := by
  rw [h.exec, receive_byte hrxs, passiveByte_warm (s := { s with rxs := rest }) b ctx ((endsWithMagic_iff _).mpr ⟨unit, hunit⟩) hw]
  rfl

theorem exec_passive_deliver (ctx : Option U16) {unit : Bytes} (hunit : s.rxBuf ++ [b] = unit ++ magic)
    (hw : s.rxWarm = false) :
    exec (.rxStepPassive ctx) s = exec (.deliver unit ctx) { s with rxs := rest, rxBuf := [] } := by
  have hnext : Passive { s with rxs := rest, rxBuf := [] } := ⟨h.halt, h.mode, h.phase⟩
  rw [h.exec, receive_byte hrxs, passiveByte_deliver (s := { s with rxs := rest }) b ctx hunit hw, Frame.exec_deliver hnext.canReceive]

end

/-- Settles O18: the three cases of a byte, and the events that are none. -/
theorem passiveReceiverStep : Obligations.PassiveReceiverStep := by
  intro ctx rest s hhalt hmode hphase
  have h : Passive s := ⟨hhalt, hmode, hphase⟩
  refine ⟨fun b hrxs => ⟨exec_passive_collect h hrxs ctx, fun _ => exec_passive_warm h hrxs ctx,
      fun _ => exec_passive_deliver h hrxs ctx⟩,
    fun hrxs hl => ?_, fun hrxs => ?_, fun hrxs hl => ?_, fun hrxs hl => ?_⟩ <;> rw [h.exec]
  · exact handOver_receive_hold hrxs hl
  · exact handOver_receive_eos h.canReceive hrxs
  · exact handOver_receive_exhausted_live hrxs hl
  · exact handOver_receive_exhausted_finite h.canReceive hrxs hl

/-! ### Runs of the framed receiver -/

theorem step_framed (hport : s.port = []) (h : Framed s) : step s = exec (.rxStepFramed s.hostCtx) s := by
  rw [step_idle hport, receiverInstr, h.mode]

theorem step_passive (hport : s.port = []) (h : Passive s) : step s = exec (.rxStepPassive s.hostCtx) s := by
  rw [step_idle hport, receiverInstr, h.mode]

section
variable {b : Byte} (hport : s.port = []) (h : Framed s) (hrxs : s.rxs = .byte b :: rest)
include hport h hrxs

theorem step_framed_collect (hneed : 2 ≤ s.rxNeed) :
    step s = .next { s with rxs := rest, rxBuf := s.rxBuf ++ [b], rxNeed := s.rxNeed - 1, ret := .none } :=
  (step_framed hport h).trans (exec_framed_collect h hrxs s.hostCtx hneed)

theorem step_framed_tail (hneed : s.rxNeed = 1) (hp : s.rxPhase = .head) :
    step s =
      .next
        { s with
          rxs := rest, rxBuf := s.rxBuf ++ [b], rxPhase := .tail
          rxNeed := (le16 (s.rxBuf ++ [b]) 4).toNat + 2, ret := .none } :=
  (step_framed hport h).trans (exec_framed_tail h hrxs s.hostCtx hneed hp)

theorem step_framed_deliver (hneed : s.rxNeed = 1) (hp : s.rxPhase = .tail) :
    step s =
      exec (.deliver (s.rxBuf ++ [b]) s.hostCtx) { s with rxs := rest, rxBuf := [], rxPhase := .head, rxNeed := 20 } :=
  (step_framed hport h).trans (exec_framed_deliver h hrxs s.hostCtx hneed hp)

end

section
variable {b : Byte} (hport : s.port = []) (h : Passive s) (hrxs : s.rxs = .byte b :: rest)
include hport h hrxs

theorem step_passive_collect (hend : ¬ ∃ unit, s.rxBuf ++ [b] = unit ++ magic) :
    step s = .next { s with rxs := rest, rxBuf := s.rxBuf ++ [b], ret := .none } :=
  (step_passive hport h).trans (exec_passive_collect h hrxs s.hostCtx hend)

theorem step_passive_deliver {unit : Bytes} (hunit : s.rxBuf ++ [b] = unit ++ magic) (hw : s.rxWarm = false) :
    step s = exec (.deliver unit s.hostCtx) { s with rxs := rest, rxBuf := [] } :=
  (step_passive hport h).trans (exec_passive_deliver h hrxs s.hostCtx hunit hw)

end

/-- Bytes that do not complete what is wanted are collected, one step each. -/
theorem run_framed_collect (bs : Bytes) {rest : List Event} {s : State} (hport : s.port = []) (h : Framed s)
    (hrxs : s.rxs = bs.map Event.byte ++ rest) (hneed : bs.length < s.rxNeed) :
    ∃ r, run bs.length s =
      .next { s with rxs := rest, rxBuf := s.rxBuf ++ bs, rxNeed := s.rxNeed - bs.length, ret := r } := by
  induction bs generalizing s with
  | nil =>
    refine ⟨s.ret, ?_⟩
    rw [List.append_nil, List.length_nil, Nat.sub_zero, run_zero]
    obtain rfl : rest = s.rxs := hrxs.symm
    rfl
  | cons b bs ih =>
    rw [List.length_cons] at hneed
    have hstep := step_framed_collect (rest := bs.map Event.byte ++ rest) hport h hrxs (by omega)
    obtain ⟨r, hr⟩ := ih
      (s := { s with
        rxs := bs.map Event.byte ++ rest, rxBuf := s.rxBuf ++ [b], rxNeed := s.rxNeed - 1, ret := .none })
      hport ⟨h.halt, h.mode, h.phase⟩ rfl (show bs.length < s.rxNeed - 1 by omega)
    refine ⟨r, ?_⟩
    rw [List.length_cons, run_succ _ hstep, hr]
    simp only [List.append_assoc, List.singleton_append, Nat.sub_sub, Nat.add_comm]

/-- The header's bytes, `Empty` events between them or not: `StreamRead` and the machine's steps take the same (R148, R56). `pre` is
what stood in the buffer before the read, `acc` what the read has taken. -/
theorem run_framed_head {live : Bool} {n : Nat} {events rest : List Event} {pre acc got : Bytes} {s : State}
    (hread : streamRead live n events acc = .bytes got rest) (hport : s.port = []) (h : Framed s) (hp : s.rxPhase = .head)
    (hlive : s.cfg.live = live) (hrxs : s.rxs = events) (hneed : s.rxNeed = n) (hpos : 0 < n) (hbuf : s.rxBuf = pre ++ acc) :
    ∃ k, run k s =
      .next
        { s with
          rxs := rest, rxBuf := pre ++ got, rxPhase := .tail, rxNeed := (le16 (pre ++ got) 4).toNat + 2, ret := .none } := by
  induction events generalizing s n acc with
  | nil =>
    obtain ⟨n, rfl⟩ := Nat.exists_eq_add_one_of_ne_zero hpos.ne'
    cases live <;> cases hread
  | cons e events ih =>
    obtain ⟨n, rfl⟩ := Nat.exists_eq_add_one_of_ne_zero hpos.ne'
    cases e with
    | byte b =>
      rw [Memory.streamRead_byte] at hread
      have hbuf' : s.rxBuf ++ [b] = pre ++ (acc ++ [b]) := by rw [hbuf, List.append_assoc]
      rcases Nat.eq_zero_or_pos n with rfl | hn
      · rw [Memory.streamRead_zero] at hread
        cases hread
        refine ⟨1, ?_⟩
        rw [run_one, step_framed_tail hport h hrxs hneed hp, hbuf']
      · have hstep := step_framed_collect hport h hrxs (by omega)
        obtain ⟨k, hk⟩ := ih
          (s := { s with rxs := events, rxBuf := s.rxBuf ++ [b], rxNeed := s.rxNeed - 1, ret := .none })
          hread hport ⟨h.halt, h.mode, h.phase⟩ hp hlive rfl (show s.rxNeed - 1 = n by omega) hn hbuf'
        exact ⟨k + 1, (run_succ k hstep).trans hk⟩
    | empty =>
      cases live with
      | false => cases hread
      | true =>
        have hstep : step s = .next { s with rxs := events, ret := .none } := by
          rw [step_framed hport h, h.exec]
          exact handOver_receive_hold hrxs hlive
        obtain ⟨k, hk⟩ := ih (s := { s with rxs := events, ret := .none }) hread hport ⟨h.halt, h.mode, h.phase⟩ hp hlive rfl
          hneed hpos hbuf
        exact ⟨k + 1, (run_succ k hstep).trans hk⟩
    | fault => cases hread

/-- Settles O23: the read of the missing bytes, from the buffer as it stands. -/
theorem framedHeaderIsAStreamRead : Obligations.FramedHeaderIsAStreamRead := by
  intro s got rest hinv hport hhalt hp hread
  have hrx := hinv.receiver
  simp only [ReceiverInv, hp] at hrx
  obtain ⟨hm, hpos, -⟩ := hrx
  exact run_framed_head hread hport ⟨hhalt, hm, .inl hp⟩ hp rfl rfl rfl hpos (List.append_nil _).symm

/-! ### A whole unit in framed mode -/

theorem exists_append_cons_append_singleton {l : Bytes} {m n : Nat} (h : l.length = m + n + 2) :
    ∃ a b c d, l = a ++ b :: (c ++ [d]) ∧ a.length = m ∧ c.length = n := by
  have hdrop : l.drop m ≠ [] := by
    rw [← List.length_pos_iff, List.length_drop]
    omega
  obtain ⟨b, tail, htail⟩ := List.exists_cons_of_ne_nil hdrop
  have hlen : tail.length = n + 1 := by
    have := congrArg List.length htail
    rw [List.length_drop, List.length_cons] at this
    omega
  obtain rfl | ⟨c, d, rfl⟩ := List.eq_nil_or_concat' tail
  · cases hlen
  refine ⟨l.take m, b, c, d, ?_, by rw [List.length_take]; omega, by simpa using hlen⟩
  rw [← htail, List.take_append_drop]

/-- A unit as long as its length field says is collected and delivered (R148): 19 bytes, the one that completes the header, the
payload and the first byte of the checksum, and the last byte. -/
theorem run_framed_unit {unit : Bytes} (hlen : unit.length = 22 + (le16 unit 4).toNat) (hport : s.port = []) (h : Framed s)
    (hp : s.rxPhase = .head) (hneed : s.rxNeed = 20) (hbuf : s.rxBuf = []) (hrxs : s.rxs = unit.map Event.byte ++ rest) :
    ∃ r, run unit.length s = exec (.deliver unit s.hostCtx) { s with rxs := rest, ret := r } := by
  obtain ⟨a, b, c, d, hunit, ha, hc⟩ :=
    exists_append_cons_append_singleton (l := unit) (m := 19) (n := (le16 unit 4).toNat + 1) (by omega)
  have hfield : le16 (a ++ [b]) 4 = le16 unit 4 := by
    have hassoc : unit = (a ++ [b]) ++ (c ++ [d]) := by rw [hunit, List.append_assoc, List.singleton_append]
    rw [hassoc, le16_append_left (a ++ [b]) _ _ (by simp; omega)]
  have hrxs1 : s.rxs = a.map Event.byte ++ (.byte b :: (c.map Event.byte ++ .byte d :: rest)) := by
    rw [hrxs, hunit]
    simp
  obtain ⟨r1, h1⟩ := run_framed_collect a hport h hrxs1 (by omega)
  have h2 := step_framed_tail (b := b) (rest := c.map Event.byte ++ .byte d :: rest) (s :=
      { s with
        rxs := .byte b :: (c.map Event.byte ++ .byte d :: rest), rxBuf := s.rxBuf ++ a, rxNeed := s.rxNeed - a.length
        ret := r1 })
    hport ⟨h.halt, h.mode, h.phase⟩ rfl (show s.rxNeed - a.length = 1 by omega) hp
  obtain ⟨r3, h3⟩ := run_framed_collect c (rest := .byte d :: rest) (s :=
      { s with
        rxs := c.map Event.byte ++ .byte d :: rest, rxBuf := s.rxBuf ++ a ++ [b], rxPhase := .tail
        rxNeed := (le16 (s.rxBuf ++ a ++ [b]) 4).toNat + 2, ret := .none })
    hport ⟨h.halt, h.mode, .inr rfl⟩ rfl
    (show c.length < (le16 (s.rxBuf ++ a ++ [b]) 4).toNat + 2 by rw [hbuf, List.nil_append, hfield]; omega)
  have h4 := step_framed_deliver (b := d) (rest := rest) (s :=
      { s with
        rxs := .byte d :: rest, rxBuf := s.rxBuf ++ a ++ [b] ++ c, rxPhase := .tail
        rxNeed := (le16 (s.rxBuf ++ a ++ [b]) 4).toNat + 2 - c.length, ret := r3 })
    hport ⟨h.halt, h.mode, .inr rfl⟩ rfl
    (show (le16 (s.rxBuf ++ a ++ [b]) 4).toNat + 2 - c.length = 1 by rw [hbuf, List.nil_append, hfield]; omega) rfl
  have hsum : unit.length = a.length + (c.length + 1 + 1) := by omega
  have hcollected : s.rxBuf ++ a ++ [b] ++ c ++ [d] = unit := by rw [hbuf, hunit]; simp
  refine ⟨r3, ?_⟩
  rw [hsum]
  refine (run_add _ _ h1).trans ((run_succ _ h2).trans ((run_add _ _ h3).trans ((run_one _).trans (h4.trans ?_))))
  simp only [hcollected]
  simp only [hbuf, hp, hneed]

theorem byteAt_eq_zero {b : Bytes} (h : ∀ x ∈ b, x = 0) (i : Nat) : byteAt b i = 0 := by
  rw [byteAt, List.getD_eq_getElem?_getD]
  cases hx : b[i]? with
  | none => rfl
  | some x => exact h x (List.mem_of_getElem? hx)

theorem le16_eq_zero {b : Bytes} (h : ∀ x ∈ b, x = 0) (i : Nat) : le16 b i = 0 := by
  rw [le16, byteAt_eq_zero h, byteAt_eq_zero h]
  rfl

/-- A formatted frame's body is not all zero: of its length pair one field is the complement of the other. -/
theorem exists_ne_zero_formatOf (seq : U16) (src dst : U32) (fn : U16) (payload : Bytes) :
    ∃ b ∈ (formatOf seq src dst fn payload).drop 4, b ≠ 0 := by
  by_contra hnone
  have hzero : ∀ b ∈ (formatOf seq src dst fn payload).drop 4, b = 0 := fun b hb => by
    by_contra hne
    exact hnone ⟨b, hb, hne⟩
  have hlen : lengthField payload = 0 := (frameBody_len ..).symm.trans (le16_eq_zero hzero 0)
  have hinv : not16 (lengthField payload) = 0 := (frameBody_lenInv ..).symm.trans (le16_eq_zero hzero 2)
  rw [hlen] at hinv
  exact absurd hinv (by decide)

/-- DELIVER of a formatted frame, with its magic in framed mode and without it in passive mode, ends in DISPATCH (R145, R153). -/
theorem exec_deliver_formatOf {unit payload : Bytes} (seq : U16) (src dst : U32) (fn : U16) (ctx : Option U16)
    (hs : CanReceive s) (hmax : payload.length ≤ 65535)
    (hunit : (s.cfg.mode = .framed ∧ unit = formatOf seq src dst fn payload) ∨
      (s.cfg.mode = .passive ∧ unit = (formatOf seq src dst fn payload).drop 4)) :
    exec (.deliver unit ctx) s =
      exec (.dispatch fn payload ctx)
        (accepted (BitVec.ofNat 16 payload.length) (~~~(BitVec.ofNat 16 payload.length)) seq src dst fn payload
          (crcOf (coverageOf seq src dst fn payload)) s) := by
  obtain ⟨-, -, hmessage⟩ :=
    Frame.parseAndDispatch_of_frameParse ctx (Frame.exec_frameParse_formatOf seq src dst fn s hmax)
  rw [Frame.exec_deliver hs, Frame.deliverUnit_body (body := (formatOf seq src dst fn payload).drop 4) ctx,
    hmessage seq src dst fn payload rfl]
  exact hunit.imp_right fun ⟨hm, hu⟩ => ⟨hm, hu, .inr (exists_ne_zero_formatOf seq src dst fn payload)⟩

/-- The length field of a formatted frame, behind its magic (R81). -/
theorem le16_formatOf (seq : U16) (src dst : U32) (fn : U16) (payload : Bytes) :
    le16 (formatOf seq src dst fn payload) 4 = lengthField payload := by
  rw [Frame.formatOf_eq_magic_append]
  exact (le16_append_right magic _ 0).trans (frameBody_len ..)

/-- Settles O24: the frame is collected as one unit, which is parsed and dispatched. -/
theorem framedReceiverDeliversAFrame : Obligations.FramedReceiverDeliversAFrame := by
  intro seq src dst fn payload rest s hmax hport hhalt hm hp hneed hbuf hrxs
  have h : Framed s := ⟨hhalt, hm, .inl hp⟩
  have hlen := formatOf_length seq src dst fn payload
  obtain ⟨r, hr⟩ := run_framed_unit (by rw [hlen, le16_formatOf, lengthField_toNat hmax]) hport h hp hneed hbuf hrxs
  have hnext : Framed { s with rxs := rest, ret := r } := ⟨hhalt, hm, .inl hp⟩
  rw [← hlen, hr, exec_deliver_formatOf seq src dst fn s.hostCtx hnext.canReceive hmax (.inl ⟨hm, rfl⟩)]
  rfl

/-! ### A whole unit in passive mode -/

/-- Bytes that complete no magic are collected, one step each (R150). -/
theorem run_passive_collect (bs : Bytes) {rest : List Event} {s : State} (hport : s.port = []) (h : Passive s)
    (hrxs : s.rxs = bs.map Event.byte ++ rest) (hmagic : noMagic (s.rxBuf ++ bs) = true) :
    ∃ r, run bs.length s = .next { s with rxs := rest, rxBuf := s.rxBuf ++ bs, ret := r } := by
  induction bs generalizing s with
  | nil =>
    refine ⟨s.ret, ?_⟩
    rw [List.append_nil, List.length_nil, run_zero]
    obtain rfl : rest = s.rxs := hrxs.symm
    rfl
  | cons b bs ih =>
    have happend : s.rxBuf ++ b :: bs = (s.rxBuf ++ [b]) ++ bs := by simp
    rw [happend] at hmagic
    have hend : ¬ ∃ unit, s.rxBuf ++ [b] = unit ++ magic := by
      rintro ⟨unit, hunit⟩
      have hfree := noMagic_prefix _ _ hmagic
      rw [hunit, noMagic_magic] at hfree
      cases hfree
    have hstep := step_passive_collect (rest := bs.map Event.byte ++ rest) hport h hrxs hend
    obtain ⟨r, hr⟩ := ih
      (s := { s with rxs := bs.map Event.byte ++ rest, rxBuf := s.rxBuf ++ [b], ret := .none })
      hport ⟨h.halt, h.mode, h.phase⟩ rfl hmagic
    refine ⟨r, ?_⟩
    rw [List.length_cons, run_succ _ hstep, hr, happend]

/-- A unit without a magic, and the magic behind it, after the warm-up (R150): the unit is delivered with the last byte. -/
theorem run_passive_unit {unit : Bytes} (hport : s.port = []) (h : Passive s) (hw : s.rxWarm = false) (hbuf : s.rxBuf = [])
    (hmagic : noMagic (unit ++ [0x12, 0x34, 0x56]) = true) (hrxs : s.rxs = (unit ++ magic).map Event.byte ++ rest) :
    ∃ r, run (unit.length + 4) s = exec (.deliver unit s.hostCtx) { s with rxs := rest, ret := r } := by
  have hrxs1 : s.rxs = (unit ++ [0x12, 0x34, 0x56]).map Event.byte ++ .byte 0x79 :: rest := by
    rw [hrxs]
    simp [magic]
  obtain ⟨r, h1⟩ := run_passive_collect _ hport h hrxs1 (by rw [hbuf]; exact hmagic)
  have hlast : s.rxBuf ++ (unit ++ [0x12, 0x34, 0x56]) ++ [0x79] = unit ++ magic := by
    rw [hbuf]
    simp [magic]
  have h2 := step_passive_deliver (b := 0x79) (rest := rest) (s :=
      { s with rxs := .byte 0x79 :: rest, rxBuf := s.rxBuf ++ (unit ++ [0x12, 0x34, 0x56]), ret := r })
    hport ⟨h.halt, h.mode, h.phase⟩ rfl hlast hw
  have hsum : unit.length + 4 = (unit ++ [0x12, 0x34, 0x56]).length + 1 := by simp
  refine ⟨r, ?_⟩
  rw [hsum]
  refine (run_add _ _ h1).trans ((run_one _).trans (h2.trans ?_))
  simp only [hbuf]

/-- Settles O25: the frame without its magic is collected as one unit, which is parsed and dispatched. -/
theorem passiveReceiverDeliversAFrame : Obligations.PassiveReceiverDeliversAFrame := by
  intro seq src dst fn payload rest s hmax hport hhalt hm hp hw hbuf hmagic hrxs
  have hlen : ((formatOf seq src dst fn payload).drop 4).length + 4 = 22 + payload.length := by
    rw [List.length_drop, formatOf_length]
    omega
  obtain ⟨r, hr⟩ := run_passive_unit hport ⟨hhalt, hm, hp⟩ hw hbuf hmagic hrxs
  have hnext : Passive { s with rxs := rest, ret := r } := ⟨hhalt, hm, hp⟩
  rw [← hlen, hr, exec_deliver_formatOf seq src dst fn s.hostCtx hnext.canReceive hmax (.inr ⟨hm, rfl⟩)]
  rfl

end Sys2Proof.Proofs.Receivers
end

section
/-! PROOFS. The message-class rows (R101 level 2, R181), each an arm of DISPATCH, and that DISPATCH reads neither the Message registers
nor `PAY` (R198). -/

namespace Sys2Proof.Proofs.Rows

open Sys2Proof.Machine Sys2Proof.Claim

/-! ### A row is an arm of DISPATCH (log entry 5) -/

section
variable {k : PlainClass} {fn : U16} {pay : Bytes} {ctx : Option U16} {s t : State} {r : Result}
  {d : Bytes → State → Res Result}

theorem exec_messageRow (k : PlainClass) (fn : U16) (pay : Bytes) (ctx : Option U16) (s : State) :
    exec (messageRow (.plain k) fn pay ctx) s = handOver (dispatchClass k fn pay s) := by
  cases k <;> rfl

theorem exec_kCtx (fn : U16) (pay : Bytes) (ctx : Option U16) (s : State) :
    exec (.kCtx fn pay ctx) s = exec (messageRow (.plain (s.cfg.resolveCtx ctx)) fn pay none) s := by
  rw [exec_messageRow]
  rfl

theorem exec_dispatch_eq_messageRow (h : s.cfg.resolveClass fn ctx = k) :
    exec (.dispatch fn pay ctx) s = exec (messageRow (.plain k) fn pay none) s := by
  rw [exec_messageRow, Frame.exec_dispatch, dispatchMessage, h]

/-- A row whose decoder finds a result hands it over with `OK`. -/
theorem exec_messageRow_named (hd : decoderOf k = some d) (h : d pay s = .ok r t) (hr : r.missed = false) :
    exec (messageRow (.plain k) fn pay none) s = .next (decodedOk fn r t) := by
  rw [exec_messageRow, dispatchClass_decoder fn pay s hd, h, finishDispatch, bind_ok, flagDecoded_named t hr]
  rfl

/-- A row whose look-up has no entry hands the raw value over with `MapMiss`. -/
theorem exec_messageRow_missed (hd : decoderOf k = some d) (h : d pay s = .ok r (s.setCode .mapMiss))
    (hr : r.missed = true) : exec (messageRow (.plain k) fn pay none) s = .next (decodedMiss fn r s) := by
  rw [exec_messageRow, dispatchClass_decoder fn pay s hd, h, finishDispatch, bind_ok, flagDecoded_missed _ hr]
  rfl

theorem exec_kOpmode_named {b0 b1 b2 b3 : Byte} {name : String}
    (h : s.cfg.opmodeName ⟨b3 ++ (b2 ++ (b1 ++ b0))⟩ = some name) :
    exec (.kOpmode fn [b0, b1, b2, b3]) s = .next (decodedOk fn (.opMode ⟨b3 ++ (b2 ++ (b1 ++ b0))⟩ (some name)) s) :=
  exec_messageRow_named (k := .opmode) rfl (Dispatch.decOpmode_named h) rfl

/-- DEC.NONE's rows give the empty result (R184). -/
theorem exec_messageRow_none (hd : decoderOf k = some decNone) :
    exec (messageRow (.plain k) fn pay none) s = .next (decodedOk fn .empty s) :=
  exec_messageRow_named hd rfl rfl

end

/-- Settles O28: the class of the code, resolved, names the row that DISPATCH runs. -/
theorem rowsAreArmsOfDispatch : Obligations.RowsAreArmsOfDispatch := by
  intro fn pay ctx s
  refine ⟨fun k hk => exec_dispatch_eq_messageRow (Dispatch.resolveClass_plain hk), fun hk => ?_, fun hctx => ?_,
    fun hctx => ?_, fun b0 b1 b2 b3 name hctx hpay hname => ?_, ?_, exec_messageRow_none (k := .zeroarg) rfl,
    exec_messageRow_none (k := .encrypted) rfl⟩
  · rw [exec_kCtx]
    exact exec_dispatch_eq_messageRow (Dispatch.resolveClass_ctx hk)
  · rw [exec_kCtx, Dispatch.resolveCtx_designated hctx]
    rfl
  · rw [exec_kCtx, Dispatch.resolveCtx_other hctx]
  · rw [exec_kCtx, Dispatch.resolveCtx_designated hctx, hpay]
    exact exec_kOpmode_named hname
  · rw [← Frame.raiseError_eq_errorState _ _ rfl rfl]
    rfl

/-- Settles O34: each row on its layout, byte by byte. -/
theorem fixedLayoutRows : Obligations.FixedLayoutRows := by
  intro f s b0 b1 b2 b3 b4 b5 b6 b7
  exact ⟨exec_messageRow_named (k := .param) rfl (Dispatch.decParam_bytes b0 b1 s) rfl,
    exec_messageRow_named (k := .version) rfl (Dispatch.decVersion_bytes b0 b1 b2 b3 s) rfl,
    exec_messageRow_named (k := .long) rfl (Dispatch.decLong_bytes b0 b1 b2 b3 s) rfl,
    exec_messageRow_named (k := .valtype) rfl (Dispatch.decValtype_bytes b0 b1 b2 b3 b4 b5 s) rfl,
    exec_messageRow_named (k := .paramval) rfl (Dispatch.decParamval_bytes b0 b1 b2 b3 b4 b5 s) rfl,
    exec_messageRow_named (k := .time) rfl (Dispatch.decTime_bytes b0 b1 b2 b3 b4 b5 b6 b7 s) rfl⟩

/-- Settles O35: with a name `OK`, without one `MapMiss`; the two variable layouts byte by byte. -/
theorem nameTableAndVariableRows : Obligations.NameTableAndVariableRows := by
  intro f s b0 b1 b2 b3 b4 b5 b6 b7 data name a0 a1 c0 c1 d0 d1 e0 e1 g0 g1 h0 h1 i0 i1
  exact ⟨exec_kOpmode_named,
    fun h => exec_messageRow_missed (k := .opmode) rfl (Dispatch.decOpmode_missed h) rfl,
    fun h => exec_messageRow_named (k := .status) rfl (Dispatch.decStatus_named h) rfl,
    fun h => exec_messageRow_missed (k := .status) rfl (Dispatch.decStatus_missed h) rfl,
    exec_messageRow_named (k := .offlen) rfl (Dispatch.decOfflen_bytes b0 b1 b2 b3 b4 b5 b6 b7 data s) rfl,
    exec_messageRow_named (k := .statusvec) rfl (Dispatch.decStatusvec_nil s) rfl,
    exec_messageRow_named (k := .statusvec) rfl
      (Dispatch.decStatusvec_bytes a0 a1 c0 c1 d0 d1 e0 e1 s g0 g1 h0 h1 i0 i1) rfl⟩

/-! ### The Message registers are not read (R181, R198) -/

/-- The state with other contents of the Message registers and `PAY`. -/
def withMessage (m : MessageRegs) (s : State) : State :=
  { s with
    mSeq := m.seq, mFrom := m.src, mTo := m.dst, mFn := m.fn, mLen := m.len, mLenInv := m.lenInv, mCks := m.cks, pay := m.pay }

/-- The same answer in the state with other contents of the Message registers. -/
def answerWithMessage {α : Type} (m : MessageRegs) : Res α → Res α
  | .ok a s => .ok a (withMessage m s)
  | .raised s => .raised (withMessage m s)

/-- An operation that neither reads nor writes the Message registers. -/
def Blind {α : Type} (op : State → Res α) : Prop := ∀ m s, op (withMessage m s) = answerWithMessage m (op s)

section
variable {α β : Type}

theorem Blind.bind {op : State → Res α} {f : α → State → Res β} (h : Blind op) (hf : ∀ a, Blind (f a)) :
    Blind fun s => (op s).bind f := by
  intro m s
  beta_reduce
  rw [h m s]
  cases op s with
  | ok a u => exact hf a m u
  | raised u => rfl

/-- An operation that reads the configuration alone to decide between blind ones. -/
theorem Blind.of_cfg {op : Cfg → State → Res α} (h : ∀ cfg, Blind (op cfg)) : Blind fun s => op s.cfg s :=
  fun m s => h s.cfg m s

theorem blind_ok (a : α) : Blind fun s => .ok a s := fun _ _ => rfl

theorem blind_raise (k : Code) (info : Info) : Blind (α := α) fun s => .raised (raiseError k info s) := fun _ _ => rfl

theorem blind_ite {p : Prop} [Decidable p] {op op' : State → Res α} (h : Blind op) (h' : Blind op') :
    Blind fun s => if p then op s else op' s := by
  split
  · exact h
  · exact h'

theorem blind_flag {f : Result → State → State} (hf : ∀ r m s, f r (withMessage m s) = withMessage m (f r s))
    (g : Result → α) (r : Result) : Blind fun s => .ok (g r) (f r s) := by
  intro m s
  simp only [hf, answerWithMessage]

end

theorem flagMiss_withMessage (r : Result) (m : MessageRegs) (s : State) :
    (withMessage m s).flagMiss r = withMessage m (s.flagMiss r) := by
  rcases h : r.missed
  · rw [flagMiss_named _ h, flagMiss_named _ h]
  · rw [flagMiss_missed _ h, flagMiss_missed _ h]
    rfl

theorem flagDecoded_withMessage (r : Result) (m : MessageRegs) (s : State) :
    (withMessage m s).flagDecoded r = withMessage m (s.flagDecoded r) := by
  rcases h : r.missed
  · rw [flagDecoded_named _ h, flagDecoded_named _ h]
    rfl
  · rw [flagDecoded_missed _ h, flagDecoded_missed _ h]

theorem fixedSize_blind (k : PlainClass) (want : Nat) (pay : Bytes) (r : Result) : Blind (fixedSize k want pay r) :=
  blind_ite (blind_raise _ _) (blind_ok r)

theorem named_blind (k : PlainClass) (want : Nat) (pay : Bytes) (r : Cfg → Result) :
    Blind fun s => (fixedSize k want pay (r s.cfg) s).bind fun v s' => .ok v (s'.flagMiss v) :=
  .of_cfg (op := fun cfg s => (fixedSize k want pay (r cfg) s).bind fun v s' => .ok v (s'.flagMiss v)) fun cfg =>
    (fixedSize_blind k want pay (r cfg)).bind (blind_flag (f := fun r s => s.flagMiss r) flagMiss_withMessage id)

theorem openRecord_blind (layout : Option Layout) (c : SizeClass) (mk : SubBody → DevRec) (sub : Bytes) :
    Blind (openRecord layout c mk sub) := by
  intro m s
  unfold openRecord
  split
  · rfl
  · split <;> rfl

theorem subRecord_blind (tag : U16) (id : U32) (sub : Bytes) : Blind (subRecord tag id sub) := by
  intro m s
  have hopen (layout : Option Layout) (c : SizeClass) (mk : SubBody → DevRec) :
      (openRecord layout c mk sub (withMessage m s)).map some = answerWithMessage m ((openRecord layout c mk sub s).map some) := by
    rw [openRecord_blind layout c mk sub m s]
    cases openRecord layout c mk sub s <;> rfl
  unfold subRecord
  split_ifs
  · exact hopen _ _ _
  · unfold optCompact
    split <;> rfl
  · exact hopen _ _ _
  · exact hopen _ _ _
  · rfl

theorem walk_blind (fuel pos : Nat) (rest : Bytes) (out : List DevRec) : Blind (walk fuel pos rest out) := by
  induction fuel generalizing pos rest out with
  | zero => exact blind_ok out
  | succ fuel ih =>
    intro m s
    by_cases h0 : rest = []
    · subst h0
      rw [walk_nil, walk_nil]
      rfl
    by_cases h8 : rest.length < 8
    · rw [walk_shortHeader pos out _ h0 h8, walk_shortHeader pos out _ h0 h8]
      rfl
    by_cases hsub : rest.length < 8 + (le16 rest 6).toNat
    · rw [walk_shortSub pos out _ (by omega) hsub, walk_shortSub pos out _ (by omega) hsub]
      rfl
    rw [walk_record pos out _ (by omega), walk_record pos out _ (by omega)]
    exact (subRecord_blind _ _ _).bind (fun r => ih _ _ _) m s

theorem decoder_blind {k : PlainClass} {d : Bytes → State → Res Result} (hd : decoderOf k = some d) (pay : Bytes) :
    Blind (d pay) := by
  cases k <;> cases hd
  case zeroarg | encrypted => exact blind_ok _
  case opmode => exact named_blind _ _ pay fun cfg => opModeResult cfg pay
  case status => exact named_blind _ _ pay fun cfg => statusResult cfg pay
  case param | version | long | valtype | paramval | time => exact fixedSize_blind _ _ pay _
  case offlen => exact blind_ite (blind_raise _ _) (blind_ok _)
  case statusvec => exact blind_ite (blind_ok _) (fixedSize_blind _ _ pay _)
  case devdata =>
    intro m s
    exact (walk_blind pay.length 0 pay []).bind (f := fun out s' => .ok (Result.devData out s'.stSub) s') (fun _ _ _ => rfl)
      m (clearSkips s)

theorem dispatchClass_blind (k : PlainClass) (fn : U16) (pay : Bytes) : Blind (dispatchClass k fn pay) := by
  intro m s
  rcases hd : decoderOf k with _ | d
  · cases k <;> cases hd
    rfl
  · rw [dispatchClass_decoder fn pay _ hd, dispatchClass_decoder fn pay _ hd]
    exact (decoder_blind hd pay).bind
      (blind_flag (f := fun r s => s.flagDecoded r) flagDecoded_withMessage (Ret.decoded fn)) m s

theorem handOver_withMessage {m : MessageRegs} {r : Res Ret} {t : State} (h : handOver r = .next t) :
    handOver (answerWithMessage m r) = .next (withMessage m t) := by
  cases r <;> cases h <;> rfl

/-- Settles O37: DISPATCH is blind to the Message registers, and the class is read from the configuration. -/
theorem dispatchReadsNoMessageRegister : Obligations.DispatchReadsNoMessageRegister := by
  intro fn pay ctx s t seq fnReg len lenInv cks src dst buf h
  have hblind := dispatchClass_blind (s.cfg.resolveClass fn ctx) fn pay ⟨seq, src, dst, fnReg, len, lenInv, cks, buf⟩ s
  exact (congrArg handOver hblind).trans (handOver_withMessage h)

end Sys2Proof.Proofs.Rows
end

section
/-! PROOFS. The device-data decoder (R220 to R232): the sub-decoders with and without a layout, the sub-record rows, and the walker,
whose decode of a payload is said once (`Decodes`) for whatever stands before and behind it. -/

namespace Sys2Proof.Proofs.Walker

open Sys2Proof.Machine Sys2Proof.Claim

/-! ### The open layouts (R99, R220) -/

section
variable {id : U32} {sub : Bytes} {s : State} {l : Layout} {mk : SubBody → DevRec} {c : SizeClass}

theorem exec_devOptLegacy : exec (.devOptLegacy id sub) s = handOver ((optLegacy id sub s).map Ret.record) := rfl

theorem exec_devInverter : exec (.devInverter id sub) s = handOver ((inverter id sub s).map Ret.record) := rfl

theorem exec_devEvent : exec (.devEvent id sub) s = handOver ((eventRecord id sub s).map Ret.record) := rfl

/-- Without a layout the bytes are handed over uncut. -/
theorem handOver_openRecord_uncut :
    handOver ((openRecord none c mk sub s).map Ret.record) = .next { s with ret := .record (mk (.uncut sub)) } := rfl

/-- Settles O39: an open record without its layout. -/
theorem subDecodersWithoutLayout : Obligations.SubDecodersWithoutLayout := by
  intro id sub s
  refine ⟨fun h => ?_, fun h => ?_, fun h => ?_⟩
  · rw [exec_devOptLegacy, optLegacy, h, handOver_openRecord_uncut]
  · rw [exec_devInverter, inverter, h, handOver_openRecord_uncut]
  · rw [exec_devEvent, eventRecord, h, handOver_openRecord_uncut]

theorem normId_eq (x : U32) : normId x = x &&& 0xFF7FFFFF := rfl

/-- The fields of a layout are those at the front of the bytes, one by one (R53, R55). -/
theorem readFields_eq_fieldsAt (l : Layout) (sub : Bytes) (h : sub.length = l.size) : readFields l sub = fieldsAt l sub := by
  induction l generalizing sub with
  | nil => rfl
  | cons k l ih =>
    have hsize : Layout.size (k :: l) = k.size + Layout.size l := rfl
    rw [hsize] at h
    cases k with
    | u8 =>
      obtain _ | ⟨b0, rest⟩ := sub
      · simp [FieldKind.size] at h; omega
      · exact congrArg (FieldVal.b1 b0 :: ·) (ih rest (by simp [FieldKind.size] at h; omega))
    | u16 =>
      obtain _ | ⟨b0, _ | ⟨b1, rest⟩⟩ := sub
      iterate 2 · simp [FieldKind.size] at h; omega
      · rw [readFields, FieldKind.read, le16_cons, fieldsAt]
        exact congrArg (FieldVal.b2 (b1 ++ b0) :: ·) (ih rest (by simp [FieldKind.size] at h; omega))
    | u32 =>
      obtain _ | ⟨b0, _ | ⟨b1, _ | ⟨b2, _ | ⟨b3, rest⟩⟩⟩⟩ := sub
      iterate 4 · simp [FieldKind.size] at h; omega
      · rw [readFields, FieldKind.read, le32_cons, fieldsAt]
        exact congrArg (FieldVal.b4 (b3 ++ (b2 ++ (b1 ++ b0))) :: ·) (ih rest (by simp [FieldKind.size] at h; omega))
    | devId =>
      obtain _ | ⟨b0, _ | ⟨b1, _ | ⟨b2, _ | ⟨b3, rest⟩⟩⟩⟩ := sub
      iterate 4 · simp [FieldKind.size] at h; omega
      · rw [readFields, FieldKind.read, le32_cons, fieldsAt, normId_eq]
        exact congrArg (FieldVal.b4 ((b3 ++ (b2 ++ (b1 ++ b0))) &&& 0xFF7FFFFF) :: ·)
          (ih rest (by simp [FieldKind.size] at h; omega))

/-- With a layout: the ordered fields of a sub-payload of its size, the refusal of another size. -/
theorem handOver_openRecord_cut :
    (sub.length = l.size →
      handOver ((openRecord (some l) c mk sub s).map Ret.record) =
        .next { s with ret := .record (mk (.cut (fieldsAt l sub))) }) ∧
      (sub.length ≠ l.size →
        handOver ((openRecord (some l) c mk sub s).map Ret.record) = .next (sizeRefused c sub.length l.size s)) := by
  refine ⟨fun h => ?_, fun h => ?_⟩
  · rw [openRecord_cut _ _ _ h, readFields_eq_fieldsAt l sub h, map_ok, handOver_ok]
  · rw [openRecord_refused _ _ _ h, Frame.raiseError_eq_refusalState _ _ rfl rfl, map_raised, handOver_raised]
    rfl

end

/-- Settles O40: an open record under its layout. -/
theorem layoutsAreApplied : Obligations.LayoutsAreApplied := by
  intro id sub l s
  refine ⟨fun h => ?_, fun h => ?_, fun h => ?_⟩
  · rw [exec_devOptLegacy, optLegacy, h]
    exact handOver_openRecord_cut
  · rw [exec_devInverter, inverter, h]
    exact handOver_openRecord_cut
  · rw [exec_devEvent, eventRecord, h]
    exact handOver_openRecord_cut

/-! ### Scale of the temperature, and DEV.SKIP (R228, R230) -/

theorem toInt_signed8_of_lt {v : Byte} (h : v.toNat < 128) : (signed8 v).toInt = v.toNat := if_pos h

theorem toInt_signed8_of_ge {v : Byte} (h : 128 ≤ v.toNat) : (signed8 v).toInt = (v.toNat : Int) - 256 :=
  if_neg (Nat.not_lt.mpr h)

/-- Settles O42: the two halves of two's complement, times 2; `0xEC` is in the upper one. -/
theorem temperatureIsSignedAndScaled : Obligations.TemperatureIsSignedAndScaled := by
  have hhigh (v : Byte) (h : 128 ≤ v.toNat) : ((signed8 v).toInt : Rat) * scaleTemp = 2 * v.toNat - 512 := by
    rw [toInt_signed8_of_ge h, scaleTemp]
    push_cast
    ring
  refine ⟨fun v h => ?_, hhigh, ?_⟩
  · rw [toInt_signed8_of_lt h, scaleTemp]
    push_cast
    ring
  · rw [hhigh 0xEC (by decide), show (0xEC : Byte).toNat = 236 from rfl]
    norm_num

theorem exec_devSkip (tag : U16) (id : U32) (sublen : U16) (s : State) :
    exec (.devSkip tag id sublen) s = .next { skipRecord tag s with ret := .none } := rfl

/-- Settles O43: DEV.SKIP is `skipRecord`. -/
theorem unrecognisedTagIsCounted : Obligations.UnrecognisedTagIsCounted := exec_devSkip

/-! ### One sub-record (R221, R222) -/

section
variable {tag : U16} {id : U32} {sub : Bytes} {s : State}

theorem subRecord_legacy : subRecord 0x0000 id sub s = (optLegacy id sub s).map some := rfl

theorem subRecord_compact : subRecord 0x0080 id sub s = (optCompact id sub s).map some := rfl

theorem subRecord_inverter : subRecord 0x0010 id sub s = (inverter id sub s).map some := rfl

theorem subRecord_event : subRecord 0x0300 id sub s = (eventRecord id sub s).map some := rfl

/-- The four tags that are recognised, or another one (R222). -/
theorem tag_cases (tag : U16) :
    tag = 0x0000 ∨ tag = 0x0080 ∨ tag = 0x0010 ∨ tag = 0x0300 ∨ tagUnrecognised tag = true := by
  by_cases h0 : tag = 0x0000
  · exact .inl h0
  by_cases h1 : tag = 0x0080
  · exact .inr (.inl h1)
  by_cases h2 : tag = 0x0010
  · exact .inr (.inr (.inl h2))
  by_cases h3 : tag = 0x0300
  · exact .inr (.inr (.inr (.inl h3)))
  simp only [tagUnrecognised, Bool.and_eq_true, bne_iff_ne, ne_eq]
  exact .inr (.inr (.inr (.inr ⟨⟨⟨h0, h1⟩, h2⟩, h3⟩)))

theorem recordOf_other (bits : CompactBits) {x : Sub} (h : tagUnrecognised x.1 = true) : recordOf bits x = none := by
  simp only [tagUnrecognised, Bool.and_eq_true, bne_iff_ne, ne_eq] at h
  obtain ⟨⟨⟨h0, h1⟩, h2⟩, h3⟩ := h
  exact (if_neg h0).trans ((if_neg h1).trans ((if_neg h2).trans (if_neg h3)))

/-- The record of a sub-record under no layout, or one more skipped. -/
theorem subRecord_noLayouts (h : noLayouts s) (hcompact : tag = 0x0080 → 13 ≤ sub.length) (devid : U32) :
    subRecord tag (normId devid) sub s =
      .ok (recordOf s.cfg.compactBits (tag, devid, sub))
        (if (recordOf s.cfg.compactBits (tag, devid, sub)).isNone then skipRecord tag s else s) := by
  obtain ⟨hlegacy, hinverter, hevent⟩ := h
  obtain rfl | rfl | rfl | rfl | hother := tag_cases tag
  · rw [subRecord_legacy, optLegacy, hlegacy]
    rfl
  · rw [subRecord_compact, DevData.optCompact_ok (hcompact rfl)]
    rfl
  · rw [subRecord_inverter, inverter, hinverter]
    rfl
  · rw [subRecord_event, eventRecord, hevent]
    rfl
  · rw [subRecord_other _ _ _ hother, recordOf_other _ hother]
    rfl

theorem subRecord_compact_short (h : sub.length < 13) :
    subRecord 0x0080 id sub s = .raised (sizeRefused .sOptCompact sub.length 13 s) := by
  rw [subRecord_compact, DevData.optCompact_refused h, map_raised]

end

/-- Settles O44: a row is one sub-record under the tag it names, its id normalised. -/
theorem subRecordRows : Obligations.SubRecordRows := by
  intro devid sub s h
  have hrow (tag : U16) (hcompact : tag = 0x0080 → 13 ≤ sub.length) :
      handOver ((subRecord tag (normId devid) sub s).map recordRet) = _ :=
    congrArg (fun r => handOver (r.map recordRet)) (subRecord_noLayouts h hcompact devid)
  refine ⟨hrow 0x0000 nofun, hrow 0x0010 nofun, hrow 0x0300 nofun, fun h13 => hrow 0x0080 fun _ => h13, fun h13 => ?_,
    fun tag h0 h1 h2 h3 => (hrow tag fun h80 => absurd h80 h1).trans ?_⟩
  · exact congrArg (fun r => handOver (r.map recordRet)) (subRecord_compact_short h13)
  · have hnone : recordOf s.cfg.compactBits (tag, devid, sub) = none := by
      rw [recordOf, if_neg h0, if_neg h1, if_neg h2, if_neg h3]
    rw [hnone]
    rfl

/-! ### What a payload decodes to (R221) -/

/-- The skip count and the recorded tags with further tags (R230, R250). -/
def addSkips (tags : List U16) (s : State) : State :=
  { s with stSub := s.stSub + tags.length, stTags := s.stTags ++ tags }

theorem addSkips_nil (s : State) : addSkips [] s = s := by
  rw [addSkips, List.append_nil]
  rfl

theorem addSkips_append (tags tags' : List U16) (s : State) :
    addSkips (tags ++ tags') s = addSkips tags' (addSkips tags s) := by
  simp only [addSkips, List.length_append, List.append_assoc, Nat.add_assoc]

/-- The walker reads the payload `a` as these records and skipped tags, whatever it has read before and whatever follows. -/
def Decodes (cfg : Cfg) (a : Bytes) (recs : List DevRec) (tags : List U16) : Prop :=
  ∀ (b : Bytes) (pos : Nat) (out : List DevRec) (s : State), s.cfg = cfg →
    walk (a ++ b).length pos (a ++ b) out s = walk b.length (pos + a.length) b (out ++ recs) (addSkips tags s)

section
variable {cfg : Cfg} {a b : Bytes} {ra rb : List DevRec} {ta tb : List U16}

theorem Decodes.nil : Decodes cfg [] [] [] := by
  intro b pos out s _
  rw [addSkips_nil, List.append_nil]
  rfl

theorem Decodes.append (ha : Decodes cfg a ra ta) (hb : Decodes cfg b rb tb) :
    Decodes cfg (a ++ b) (ra ++ rb) (ta ++ tb) := by
  intro c pos out s hs
  rw [List.append_assoc, ha _ _ _ _ hs, hb _ _ _ (addSkips ta s) hs, addSkips_append, List.append_assoc, List.length_append,
    Nat.add_assoc]

/-- One whole sub-record, by what its tag gives. -/
theorem Decodes.record {p : Bytes} {r : Option DevRec} {tags : List U16} (hlen : p.length = 8 + (le16 p 6).toNat)
    (hr : ∀ s : State, s.cfg = cfg → subRecord (le16 p 0) (normId (le32 p 2)) (p.drop 8) s = .ok r (addSkips tags s)) :
    Decodes cfg p r.toList tags := by
  intro b pos out s hs
  have h6 : le16 (p ++ b) 6 = le16 p 6 := le16_append_left _ _ _ (by omega)
  have h0 : le16 (p ++ b) 0 = le16 p 0 := le16_append_left _ _ _ (by omega)
  have h2 : le32 (p ++ b) 2 = le32 p 2 := le32_append_left _ _ _ (by omega)
  have hsub : ((p ++ b).drop 8).take (le16 p 6).toNat = p.drop 8 := by
    rw [List.drop_append_of_le_length (by omega), List.take_left' (by rw [List.length_drop]; omega)]
  have hrest : (p ++ b).drop (8 + (le16 p 6).toNat) = b := List.drop_left' hlen
  obtain ⟨fuel, hfuel⟩ : ∃ fuel, (p ++ b).length = fuel + 1 := ⟨p.length + b.length - 1, by rw [List.length_append]; omega⟩
  rw [hfuel, walk_record pos out s (by rw [h6, List.length_append]; omega), h6, h0, h2, hsub, hrest, hr s hs, bind_ok,
    walk_fuel fuel b.length _ _ _ _ (by rw [List.length_append] at hfuel; omega) le_rfl, hlen, Nat.add_assoc]

theorem decDevdata_of_decodes_append {s : State} (h : Decodes s.cfg a ra ta) :
    decDevdata (a ++ b) s =
      (walk b.length a.length b ra (addSkips ta (clearSkips s))).bind fun out s' => .ok (.devData out s'.stSub) s' := by
  rw [decDevdata, h b 0 [] (clearSkips s) rfl, Nat.zero_add, List.nil_append]

theorem decDevdata_of_decodes {s : State} (h : Decodes s.cfg a ra ta) :
    decDevdata a s = .ok (.devData ra ta.length) (addSkips ta (clearSkips s)) := by
  have happend := decDevdata_of_decodes_append (b := []) h
  rw [List.append_nil, walk_nil, bind_ok] at happend
  rw [happend, addSkips, clearSkips_stSub, Nat.zero_add]

/-- What DEC.DEVDATA leaves of a payload that decodes. -/
theorem exec_decDevdata_of_decodes {s : State} (h : Decodes s.cfg a ra ta) :
    exec (.decDevdata a) s =
      .next { s with stSub := ta.length, stTags := ta, ret := .result (.devData ra ta.length) } := by
  rw [Dispatch.exec_decoder_ok (k := .devdata) rfl rfl (decDevdata_of_decodes h), addSkips, clearSkips_stSub, Nat.zero_add,
    clearSkips_stTags, List.nil_append]
  rfl

end

/-! ### Runs of well-formed sub-records -/

section
variable {s : State} {xs : List Sub}

theorem skippedOf_eq_length (bits : CompactBits) (xs : List Sub) : skippedOf bits xs = (skippedTags bits xs).length := by
  rw [skippedOf, skippedTags, List.length_map, List.countP_eq_length_filter]

theorem walked_eq_addSkips (xs : List Sub) (s : State) :
    walked xs s = addSkips (skippedTags s.cfg.compactBits xs) (clearSkips s) := by
  rw [walked, skippedOf_eq_length, addSkips, clearSkips_stSub, Nat.zero_add, clearSkips_stTags, List.nil_append]
  rfl

theorem decodes_encodeSub (h : noLayouts s) {x : Sub} (hfit : x.2.2.length ≤ 65535)
    (hcompact : x.1 = 0x0080 → 13 ≤ x.2.2.length) :
    Decodes s.cfg (encodeSub x.1 x.2.1 x.2.2) (recordOf s.cfg.compactBits x).toList
      (if (recordOf s.cfg.compactBits x).isNone then [x.1] else []) := by
  obtain ⟨tag, devid, sub⟩ := x
  obtain ⟨h0, h2, h6, hsub, -⟩ := encodeSub_fields tag devid sub [] hfit
  rw [List.append_nil] at h0 h2 h6 hsub
  have hlen := encodeSub_length tag devid sub
  refine Decodes.record (by rw [hlen, h6]) fun u hu => ?_
  have hdrop : (encodeSub tag devid sub).drop 8 = sub := by
    rw [List.take_of_length_le (by rw [List.length_drop]; omega)] at hsub
    exact hsub
  have hlayouts : noLayouts u := by rw [noLayouts, hu]; exact h
  rw [h0, h2, hdrop, subRecord_noLayouts hlayouts hcompact devid, hu]
  split
  · rfl
  · rw [addSkips_nil]

/-- A run of well-formed sub-records decodes to the records of the recognised ones and the tags of the others. -/
theorem decodes_subBytes (h : noLayouts s) (hfit : subsFit xs) :
    Decodes s.cfg (subBytes xs) (xs.filterMap (recordOf s.cfg.compactBits)) (skippedTags s.cfg.compactBits xs) := by
  induction xs with
  | nil => exact .nil
  | cons x xs ih =>
    obtain ⟨hx, hxs⟩ := List.forall_mem_cons.mp hfit
    have hhead := (decodes_encodeSub h hx.1 hx.2).append (ih hxs)
    have hrecs : (x :: xs).filterMap (recordOf s.cfg.compactBits) =
        (recordOf s.cfg.compactBits x).toList ++ xs.filterMap (recordOf s.cfg.compactBits) := by
      rw [List.filterMap_cons]
      cases recordOf s.cfg.compactBits x <;> rfl
    have htags : skippedTags s.cfg.compactBits (x :: xs) =
        (if (recordOf s.cfg.compactBits x).isNone then [x.1] else []) ++ skippedTags s.cfg.compactBits xs := by
      rw [skippedTags, List.filter_cons]
      split <;> rfl
    rw [hrecs, htags]
    exact hhead

end

/-- Settles O45: the run decodes, and DEC.DEVDATA and its row hand over what a payload decodes to. -/
theorem walkerDecodesEveryRun : Obligations.WalkerDecodesEveryRun := by
  intro xs f s h hfit r
  have hdec : decDevdata (subBytes xs) s = .ok r (walked xs s) := by
    rw [decDevdata_of_decodes (decodes_subBytes h hfit), walked_eq_addSkips, ← skippedOf_eq_length]
  exact ⟨Dispatch.exec_decoder_ok (k := .devdata) rfl rfl hdec, Rows.exec_messageRow_named (k := .devdata) rfl hdec rfl⟩

/-! ### Refusals of the walker (R221) -/

/-- What the walker raises on the bytes behind a run ends the decode. -/
theorem exec_decDevdata_raised {xs : List Sub} {piece : Bytes} {s t : State} (h : noLayouts s) (hfit : subsFit xs)
    (hwalk : ∀ out, walk piece.length (subBytes xs).length piece out (walked xs s) = .raised t) :
    exec (.decDevdata (subBytes xs ++ piece)) s = .next t := by
  refine Dispatch.exec_decoder_raised (k := .devdata) (d := decDevdata) rfl rfl ?_
  rw [decDevdata_of_decodes_append (decodes_subBytes h hfit), ← walked_eq_addSkips, hwalk, bind_raised]

/-- Settles O46: the three refusals of the walk over the piece behind the run. -/
theorem walkerRefusesTruncation : Obligations.WalkerRefusesTruncation := by
  intro xs piece s h hfit t at_
  refine ⟨fun hpos h8 => ?_, fun h8 hlen => ?_, fun devid sub rest h13 hpiece => ?_⟩ <;>
    refine exec_decDevdata_raised h hfit fun out => ?_
  · obtain ⟨fuel, hfuel⟩ := Nat.exists_eq_add_one_of_ne_zero hpos.ne'
    rw [hfuel, walk_shortHeader _ out _ (List.length_pos_iff.mp hpos) h8, Frame.raiseError_eq_refusalState _ _ rfl rfl,
      ← hfuel]
  · obtain ⟨fuel, hfuel⟩ := Nat.exists_eq_add_one_of_ne_zero (show piece.length ≠ 0 by omega)
    rw [hfuel, walk_shortSub _ out _ h8 hlen, Frame.raiseError_eq_refusalState _ _ rfl rfl, ← hfuel]
  · have hsize := congrArg List.length hpiece
    rw [List.length_append, encodeSub_length] at hsize
    obtain ⟨fuel, hfuel⟩ := Nat.exists_eq_add_one_of_ne_zero (show piece.length ≠ 0 by omega)
    obtain ⟨h0, -, h6, hsub, -⟩ := encodeSub_fields 0x0080 devid sub rest (by omega)
    rw [← hpiece] at h0 h6 hsub
    rw [hfuel, walk_record _ out _ (by rw [h6]; omega), h0, h6, hsub, subRecord_compact_short h13, bind_raised]

/-! ### Payloads put together (R231) -/

section
variable {s t : State}

theorem openRecord_ok_eq {layout : Option Layout} {c : SizeClass} {mk : SubBody → DevRec} {sub : Bytes} {r : Option DevRec}
    (h : (openRecord layout c mk sub s).map some = .ok r t) (u : State) :
    (openRecord layout c mk sub u).map some = .ok r (addSkips [] u) := by
  rw [addSkips_nil]
  cases layout with
  | none =>
    cases h
    rfl
  | some l =>
    by_cases hsize : sub.length = l.size
    · rw [openRecord_cut _ _ _ hsize] at h ⊢
      cases h
      rfl
    · rw [openRecord_refused _ _ _ hsize] at h
      cases h

/-- What a sub-record gives depends on the state by the configuration alone. -/
theorem subRecord_ok_addSkips {tag : U16} {id : U32} {sub : Bytes} {r : Option DevRec}
    (h : subRecord tag id sub s = .ok r t) :
    ∃ tags, ∀ u : State, u.cfg = s.cfg → subRecord tag id sub u = .ok r (addSkips tags u) := by
  obtain rfl | rfl | rfl | rfl | hother := tag_cases tag
  · refine ⟨[], fun u hu => ?_⟩
    rw [subRecord_legacy, optLegacy, hu]
    exact openRecord_ok_eq h u
  · refine ⟨[], fun u hu => ?_⟩
    obtain hlen | hlen := Nat.lt_or_ge sub.length 13
    · rw [subRecord_compact, DevData.optCompact_refused hlen] at h
      cases h
    · rw [subRecord_compact, DevData.optCompact_ok hlen] at h ⊢
      cases h
      rw [map_ok, hu, addSkips_nil]
  · refine ⟨[], fun u hu => ?_⟩
    rw [subRecord_inverter, inverter, hu]
    exact openRecord_ok_eq h u
  · refine ⟨[], fun u hu => ?_⟩
    rw [subRecord_event, eventRecord, hu]
    exact openRecord_ok_eq h u
  · rw [subRecord_other _ _ _ hother] at h
    cases h
    exact ⟨[tag], fun u _ => subRecord_other _ _ _ hother⟩

/-- A walk that ends well has read a payload that decodes. -/
theorem decodes_of_walk_ok {fuel pos : Nat} {a : Bytes} {out out' : List DevRec} (hfuel : a.length ≤ fuel)
    (h : walk fuel pos a out s = .ok out' t) : ∃ recs tags, Decodes s.cfg a recs tags := by
  induction fuel generalizing pos a out s with
  | zero =>
    obtain rfl : a = [] := List.eq_nil_of_length_eq_zero (Nat.le_zero.mp hfuel)
    exact ⟨[], [], .nil⟩
  | succ fuel ih =>
    by_cases hnil : a = []
    · subst hnil
      exact ⟨[], [], .nil⟩
    obtain hhdr | hhdr := Nat.lt_or_ge a.length 8
    · rw [walk_shortHeader _ _ _ hnil hhdr] at h
      cases h
    obtain hsub | hsub := Nat.lt_or_ge a.length (8 + (le16 a 6).toNat)
    · rw [walk_shortSub _ _ _ hhdr hsub] at h
      cases h
    rw [walk_record _ _ _ hsub] at h
    rcases hr : subRecord (le16 a 0) (normId (le32 a 2)) ((a.drop 8).take (le16 a 6).toNat) s with ⟨r, s'⟩ | s' <;>
      rw [hr] at h
    case raised => cases h
    obtain ⟨tags, htags⟩ := subRecord_ok_addSkips hr
    obtain rfl : s' = addSkips tags s := by
      rw [htags s rfl] at hr
      cases hr
      rfl
    obtain ⟨recs, tags', hdecodes⟩ := ih (by rw [List.length_drop]; omega) h
    have hhead : Decodes s.cfg (a.take (8 + (le16 a 6).toNat)) r.toList tags := by
      refine Decodes.record ?_ fun u hu => ?_
      · rw [List.length_take_of_le hsub, le16_take (by omega)]
      · rw [le16_take (by omega), le32_take (by omega), List.drop_take, Nat.add_sub_cancel_left]
        exact htags u hu
    refine ⟨r.toList ++ recs, tags ++ tags', ?_⟩
    rw [← List.take_append_drop (8 + (le16 a 6).toNat) a]
    exact hhead.append hdecodes

/-- A payload that DEC.DEVDATA decodes, with the tags it recorded. -/
theorem decodes_of_exec_decDevdata {a : Bytes} {ra : List DevRec} {na : Nat} (h : exec (.decDevdata a) s = .next t)
    (hret : t.ret = .result (.devData ra na)) : Decodes s.cfg a ra t.stTags ∧ na = t.stTags.length := by
  rcases hwalk : walk a.length 0 a [] (clearSkips s) with ⟨out, u⟩ | u
  · obtain ⟨recs, tags, hdecodes⟩ := decodes_of_walk_ok le_rfl hwalk
    rw [exec_decDevdata_of_decodes (s := s) hdecodes] at h
    cases h
    cases hret
    exact ⟨hdecodes, rfl⟩
  · have hraised : decDevdata a s = .raised u := by rw [decDevdata, hwalk, bind_raised]
    rw [Dispatch.exec_decoder_raised (k := .devdata) rfl rfl hraised] at h
    cases h
    rw [Dispatch.ret_of_decoder_raised (k := .devdata) rfl hraised] at hret
    cases hret

end

/-- Settles O47: two payloads that decode, put together. -/
theorem walkerIsAHomomorphism : Obligations.WalkerIsAHomomorphism := by
  intro a b s t u ra rb na nb ha hra hb hrb
  obtain ⟨hda, rfl⟩ := decodes_of_exec_decDevdata ha hra
  obtain ⟨hdb, rfl⟩ := decodes_of_exec_decDevdata hb hrb
  rw [exec_decDevdata_of_decodes (hda.append hdb), List.length_append]

end Sys2Proof.Proofs.Walker
end

section
/-! PROOFS. The codec (R80 to R105): what the decoder reads from each of the three kinds of bytes, said once for both directions;
decoding of an encoding, encoding of what was decoded; and the step that runs a decoded instruction. -/

namespace Sys2Proof.Proofs.Codec

open Sys2Proof.Machine Sys2Proof.Claim

section
variable {cfg : Cfg} {b : Bytes} {i : Instr}

/-! ### Frames (R80, R81) -/

/-- The frame with the fields of a body whose payload has `n` bytes. -/
def frameOf (body : Bytes) (n : Nat) : Instr :=
  .frame (le16 body 0) (le16 body 2) (le16 body 4) (le32 body 6) (le32 body 10) (le16 body 14) ((body.drop 16).take n)
    (le16 body (16 + n))

theorem frameOf_frameBody (len lenInv seq : U16) (src dst : U32) (fn : U16) (payload : Bytes) (cks : U16) :
    frameOf (frameBody len lenInv seq src dst fn payload cks) payload.length =
      .frame len lenInv seq src dst fn payload cks := by
  rw [frameOf, frameBody_len, frameBody_lenInv, frameBody_seq, frameBody_src, frameBody_dst, frameBody_fn,
    frameBody_payload, frameBody_cks]

/-- A frame is read when its magic is followed by as many bytes as its length field asks for. -/
theorem decodeFrame_magic (body : Bytes) :
    decodeFrame (magic ++ body) =
      if body.length < 18 + (le16 body 0).toNat then .error .shortFrame
      else .ok (frameOf body (le16 body 0).toNat, body.drop (18 + (le16 body 0).toNat)) := by
  have hfield (k : Nat) : le16 (magic ++ body) (4 + k) = le16 body k := le16_append_right magic body k
  have hwide (k : Nat) : le32 (magic ++ body) (4 + k) = le32 body k := le32_append_right magic body k
  have hdrop (k : Nat) : (magic ++ body).drop (4 + k) = body.drop k := List.drop_length_add_append (l₁ := magic) k
  have hlen : (magic ++ body).length = 4 + body.length := List.length_append
  have htake : (magic ++ body).take 4 = magic := List.take_left' rfl
  unfold decodeFrame
  rw [if_neg (not_not_intro htake), hlen, hfield 0, headLen, cksLen,
    show 20 + (le16 body 0).toNat = 4 + (16 + (le16 body 0).toNat) by omega, hfield]
  split
  · rw [if_pos (by omega)]
  split
  · rw [if_pos (by omega)]
  · rw [if_neg (by omega), Nat.add_assoc, hdrop, hdrop 16, hfield 2, hfield 4, hwide 6, hwide 10, hfield 14, frameOf,
      show 16 + (le16 body 0).toNat + 2 = 18 + (le16 body 0).toNat by omega]

/-- The bytes of one frame: the magic and a body of the size its length field asks for. -/
theorem decode_wire_ok_iff :
    decode cfg (.wire b) = .ok i ↔
      ∃ body, b = magic ++ body ∧ body.length = 18 + (le16 body 0).toNat ∧ i = frameOf body (le16 body 0).toNat := by
  constructor
  · intro h
    have hframe := exactly_ok h
    obtain ⟨body, rfl⟩ : ∃ body, b = magic ++ body := by
      by_cases hmagic : b.take 4 = magic
      · exact ⟨b.drop 4, by rw [← hmagic, List.take_append_drop]⟩
      · rw [decodeFrame, if_pos hmagic] at hframe
        cases hframe
    rw [decodeFrame_magic] at hframe
    split at hframe
    · cases hframe
    next hlong =>
      injection hframe with hpair
      injection hpair with hi hrest
      exact ⟨body, rfl, le_antisymm (List.drop_eq_nil_iff.mp hrest) (Nat.not_lt.mp hlong), hi.symm⟩
  · rintro ⟨body, rfl, hlen, rfl⟩
    rw [decode, decodeFrame_magic, if_neg hlen.not_lt, List.drop_of_length_le hlen.le]
    rfl

theorem frameOf_wf {body : Bytes} (h : body.length = 18 + (le16 body 0).toNat) :
    (frameOf body (le16 body 0).toNat).wf cfg = true := by
  have htake : ((body.drop 16).take (le16 body 0).toNat).length = (le16 body 0).toNat :=
    List.length_take_of_le (by rw [List.length_drop]; omega)
  exact beq_iff_eq.mpr htake

theorem encode_frameOf {body : Bytes} {n : Nat} (h : body.length = 18 + n) :
    encode (frameOf body n) = .wire (magic ++ body) :=
  congrArg (fun x => Cmd.wire (magic ++ x)) (FrameLaws.frameBody_fields h)

/-! ### Messages (R101) -/

theorem messageRow_wf (k : MsgClass) (f : U16) (pay : Bytes) (ctx : Option U16) :
    (messageRow k f pay ctx).wf cfg = messageWf cfg f pay k := by
  rcases k with k | _
  · cases k <;> rfl
  · rfl

/-- The row of a message of a class that fits. -/
theorem decode_encodeMessage {f : U16} {pay : Bytes} {k : MsgClass} (ctx : Option U16) (h : messageWf cfg f pay k = true) :
    decode cfg (encodeMessage f pay ctx) = .ok (messageRow k f pay ctx) := by
  obtain ⟨hfit, hclass⟩ := Bool.and_eq_true_iff.mp h
  rw [encodeMessage, decode, decodeMessage_encode _ _ _ _ ((payloadFits_iff pay).mp hfit), beq_iff_eq.mp hclass]

theorem wf_of_decode_msg {ctx : Option U16} (h : decode cfg (.msg b ctx) = .ok i) : i.wf cfg = true := by
  rw [decode, decodeMessage] at h
  split at h
  · cases h
  split at h
  · cases h
  next hfit =>
    cases h
    rw [messageRow_wf, messageWf, Bool.and_eq_true_iff]
    exact ⟨(payloadFits_iff _).mpr (Nat.not_lt.mp hfit), BEq.rfl⟩

/-! ### Sub-records (R97, R105, R222) -/

section
variable {tag : U16}

theorem subRow_other (h : tagUnrecognised tag = true) (devid : U32) (sub : Bytes) :
    subRow tag devid sub = .subOther tag devid sub := by
  simp only [tagUnrecognised, Bool.and_eq_true, bne_iff_ne, ne_eq] at h
  obtain ⟨⟨⟨h0, h1⟩, h2⟩, h3⟩ := h
  exact (if_neg h0).trans ((if_neg h1).trans ((if_neg h2).trans (if_neg h3)))

theorem subRow_wf (tag : U16) (devid : U32) (sub : Bytes) : (subRow tag devid sub).wf cfg = payloadFits sub := by
  obtain rfl | rfl | rfl | rfl | hother := Walker.tag_cases tag
  iterate 4 · rfl
  · rw [subRow_other hother, Instr.wf, hother, Bool.and_true]

theorem encode_subRow (tag : U16) (devid : U32) (sub : Bytes) :
    encode (subRow tag devid sub) = .sub (encodeSub tag devid sub) := by
  obtain rfl | rfl | rfl | rfl | hother := Walker.tag_cases tag
  iterate 4 · rfl
  · rw [subRow_other hother, encode]

end

/-- A sub-record's bytes are the encoding of the fields read off them. -/
theorem encodeSub_fields_eq (h : b.length = 8 + (le16 b 6).toNat) : encodeSub (le16 b 0) (le32 b 2) (b.drop 8) = b := by
  have hlen : BitVec.ofNat 16 (b.drop 8).length = le16 b 6 := by
    rw [List.length_drop, h, Nat.add_sub_cancel_left, BitVec.ofNat_toNat, BitVec.setWidth_eq]
  rw [encodeSub, hlen, encLE16_le16 (by omega), encLE32_le32 (by omega), encLE16_le16 (by omega)]
  simp only [List.append_assoc, FrameLaws.piece_append_drop]
  rfl

/-- The bytes of one sub-record: the encoding of its fields. -/
theorem decode_sub_ok_iff :
    decode cfg (.sub b) = .ok i ↔
      ∃ tag devid sub, payloadFits sub = true ∧ b = encodeSub tag devid sub ∧ i = subRow tag devid sub := by
  constructor
  · intro h
    have hsub := exactly_ok h
    unfold decodeSub at hsub
    split at hsub
    · cases hsub
    split at hsub
    · cases hsub
    next hlong =>
      injection hsub with hpair
      injection hpair with hi hrest
      have hlen : b.length = 8 + (le16 b 6).toNat := le_antisymm (List.drop_eq_nil_iff.mp hrest) (Nat.not_lt.mp hlong)
      refine ⟨le16 b 0, le32 b 2, b.drop 8, (payloadFits_iff _).mpr ?_, (encodeSub_fields_eq hlen).symm, ?_⟩
      · rw [List.length_drop]
        omega
      · rw [← hi, List.take_of_length_le]
        · rfl
        · rw [List.length_drop, subHdrLen]
          omega
  · rintro ⟨tag, devid, sub, hfit, rfl, rfl⟩
    have hdecode := decodeSub_encodeSub tag devid sub [] ((payloadFits_iff sub).mp hfit)
    rw [List.append_nil] at hdecode
    rw [decode, hdecode]
    rfl

/-! ### Decode against encode -/

theorem decode_call_ok_iff {j : Instr} : decode cfg (.call j) = .ok i ↔ j.isNamed = true ∧ j.wf cfg = true ∧ j = i := by
  rw [decode]
  split
  next hnamed => simp [hnamed]
  split
  next hwf => simp [hwf]
  next hnamed hwf => simp [hnamed, hwf]

end

/-- Settles O50: an instruction is a frame, the row of a message, the row of a sub-record, or an operation called by name. -/
theorem decodeInvertsEncode : Obligations.DecodeInvertsEncode := by
  intro cfg i hwf
  cases i
  case frame len lenInv seq src dst fn payload cks =>
    have hlen : payload.length = len.toNat := beq_iff_eq.mp hwf
    refine decode_wire_ok_iff.mpr ⟨frameBody len lenInv seq src dst fn payload cks, rfl, ?_, ?_⟩ <;>
      rw [frameBody_len, ← hlen]
    · exact frameBody_length ..
    · exact (frameOf_frameBody ..).symm
  case kCtx f pay ctx => exact decode_encodeMessage ctx hwf
  case subOptLegacy devid sub => exact decode_sub_ok_iff.mpr ⟨tagOptLegacy, devid, sub, hwf, rfl, rfl⟩
  case subOptCompact devid sub => exact decode_sub_ok_iff.mpr ⟨tagOptCompact, devid, sub, hwf, rfl, rfl⟩
  case subInverter devid sub => exact decode_sub_ok_iff.mpr ⟨tagInverter, devid, sub, hwf, rfl, rfl⟩
  case subEvent devid sub => exact decode_sub_ok_iff.mpr ⟨tagEvent, devid, sub, hwf, rfl, rfl⟩
  case subOther tag devid sub =>
    obtain ⟨hfit, hother⟩ := Bool.and_eq_true_iff.mp hwf
    exact decode_sub_ok_iff.mpr ⟨tag, devid, sub, hfit, rfl, (subRow_other hother devid sub).symm⟩
  case kZeroarg | kEncrypted | kOpmode | kStatus | kParam | kVersion | kOfflen | kLong | kValtype | kParamval | kTime |
      kStatusvec | kDevdata | kUnknown => exact decode_encodeMessage none hwf
  all_goals exact decode_call_ok_iff.mpr ⟨rfl, hwf, rfl⟩

/-- Settles O51: each of the four kinds of commands. -/
theorem decodedInstructionIsWellFormed : Obligations.DecodedInstructionIsWellFormed := by
  intro cfg c i h
  cases c with
  | wire b =>
    obtain ⟨body, rfl, hlen, rfl⟩ := decode_wire_ok_iff.mp h
    exact frameOf_wf hlen
  | msg b ctx => exact wf_of_decode_msg h
  | sub b =>
    obtain ⟨tag, devid, sub, hfit, rfl, rfl⟩ := decode_sub_ok_iff.mp h
    rw [subRow_wf, hfit]
  | call j =>
    obtain ⟨-, hwf, rfl⟩ := decode_call_ok_iff.mp h
    exact hwf

/-- Settles O52: a frame and a sub-record are the encodings of the fields read off them. -/
theorem decodedBytesAreTheEncoding : Obligations.DecodedBytesAreTheEncoding := by
  intro cfg b i
  refine ⟨fun h => ?_, fun h => ?_⟩
  · obtain ⟨body, rfl, hlen, rfl⟩ := decode_wire_ok_iff.mp h
    exact encode_frameOf hlen
  · obtain ⟨tag, devid, sub, -, rfl, rfl⟩ := decode_sub_ok_iff.mp h
    exact encode_subRow tag devid sub

/-- Settles O53: the words of the frame and the sub-records are evaluated; the message is the row of its class. -/
theorem specWordsDecode : Obligations.SpecWordsDecode :=
  ⟨fun _ => rfl, fun _ => rfl, fun _ => rfl, fun _ hclass =>
    decode_encodeMessage (f := 0x0580) (k := .plain .time) (pay := [0x00, 0x00, 0x00, 0x65, 0xF0, 0xF1, 0xFF, 0xFF])
      none (by rw [messageWf, hclass]; rfl)⟩

/-! ### Fetch and step (R20, R282) -/

theorem step_request {s : State} {c : Cmd} {rest : List Cmd} {i : Instr} (hp : s.port = c :: rest)
    (hd : decode s.cfg c = .ok i) : step s = exec i { s with port := rest } := by
  rw [step, fetch_request hp hd]

theorem step_undecodable {s : State} {c : Cmd} {rest : List Cmd} {e : DecodeError} (hp : s.port = c :: rest)
    (hd : decode s.cfg c = .error e) : step s = .refused (.undecodable e) := by
  rw [step, fetch, hp]
  simp only [hd]

section
variable {s : State} {nbits w : Nat} {c : Cmd} {i : Instr}

/-- The words of the opcode table are read alike under every configuration. -/
theorem decode_tableCmd (hc : tableCmd nbits w = some c) (cfg cfg' : Cfg) : decode cfg c = decode cfg' c := by
  unfold tableCmd at hc
  split at hc
  · cases hc
    rfl
  split at hc <;> cases hc
  rfl

/-- A word that is an instruction stands for a command that decodes to it under every configuration. -/
theorem exists_tableCmd (h : decodeTableWord nbits w = some i) :
    ∃ c, tableCmd nbits w = some c ∧ ∀ cfg, decode cfg c = .ok i := by
  rcases hc : tableCmd nbits w with _ | c <;> rw [decodeTableWord, hc] at h
  case none => cases h
  refine ⟨c, rfl, fun cfg => ?_⟩
  rcases hd : decode cfg c with e | j <;> simp only [decode_tableCmd hc Cfg.sample cfg, hd] at h <;> cases h
  rfl

theorem withFetchWord_eq_request (hc : tableCmd nbits w = some c) : s.withFetchWord nbits w = s.request c := by
  rw [State.withFetchWord, hc]

theorem step_withFetchWord (h : decodeTableWord nbits w = some i) : step (s.withFetchWord nbits w) = exec i s := by
  obtain ⟨c, hc, hd⟩ := exists_tableCmd h
  rw [withFetchWord_eq_request hc]
  exact step_request rfl (hd s.cfg)

end

/-- Settles O54: a request that decodes, one that does not, none in the two modes, and a word of the table. -/
theorem stepRunsTheNextInstruction : Obligations.StepRunsTheNextInstruction :=
  ⟨fun _ _ _ _ => step_request, fun _ _ _ _ => step_undecodable,
    fun _ hp hmode => by rw [step_idle hp, receiverInstr, hmode],
    fun _ hp hmode => by rw [step_idle hp, receiverInstr, hmode], fun _ _ _ _ => step_withFetchWord⟩

end Sys2Proof.Proofs.Codec
end
